-- ==== Sys2Proof/Word.lean ====
section
/-!
DEFINITION. The word types of the block (00_scope R5, R8): every register and every port word is an unsigned bit vector of the
width the spec gives it.
-/

namespace Sys2Proof

/-- A byte: a byte-source answer, a character put to the sink (20_memory R50). -/
abbrev Byte := BitVec 8

/-- A 16-bit value: a position, a count, a raw reading, a millivolt result (00_scope R5). -/
abbrev Half := BitVec 16

/-- A command word, format CW (30_encoding R81). -/
abbrev CommandWord := BitVec 40

/-- A converter-control operation code, format CC (30_encoding R88). -/
abbrev CcWord := BitVec 3

/-- A byte-source request word, format BS (30_encoding R89). -/
abbrev BsWord := BitVec 17

/-- A sink word, format SK (30_encoding R89). -/
abbrev SkWord := BitVec 9

end Sys2Proof
end

