-- ==== Sys2Proof/Config.lean ====
section
/-!
DEFINITION. The parameters of the hardware (00_scope R5, R6), the moves of the environment (00_scope R11), and the values the spec
leaves open: constants with no body.
-/

namespace Sys2Proof

/-- `RESULT_NARROWING` (00_scope R6, 92_eei_decisions D10). -/
inductive Narrowing where
  | wrap
  | saturate
  deriving DecidableEq, Repr, Inhabited

/-- The converter's state as its contract speaks of it (42_capability_operations R178), the time since `CFG_REF`
(10_state R44 (e)), and the model's own `rawReady`. -/
structure Converter where
  /-- `AN_EN`: the analog subsystem is powered. -/
  anEn : Bool
  /-- `REF_CFG`: configured to measure the supply against the bandgap. -/
  refCfg : Bool
  /-- `CONV_BUSY`: a conversion is in flight. -/
  convBusy : Bool
  /-- `RAW`: the result of the last completed conversion. -/
  raw : Half
  /-- The model's own: some conversion has completed since the converter was last disabled (R182; log 15). -/
  rawReady : Bool
  /-- Periods of `clk` that have certainly passed since the acknowledge of `CFG_REF` (R114; log 21). -/
  refAge : Nat
  deriving DecidableEq, Repr, Inhabited

/-- One move of the whole system (00_scope R11): a unit's turn, a turn of the command port, or a step of an agent of the
environment. A move that is not enabled changes nothing (log 27). -/
inductive Event where
  /-- VS takes the one step its sequencer state gives it. -/
  | vs
  /-- HR takes the one step its sequencer state gives it. -/
  | hr
  /-- The dispatcher looks at the command port (30_encoding R82). -/
  | dispatch
  /-- The host presents a command word (30_encoding R80). -/
  | present (w : CommandWord)
  /-- The host withdraws the word it presents (70_reset_and_hazards R234). -/
  | withdraw
  /-- The host drives the reset input (70_reset_and_hazards R215). -/
  | reset (level : Bool)
  /-- The converter drives `cc_ack`; `noise` stands on the bits of `cc_rdata` the operation does not define (93 U9; log 16). -/
  | ccAck (level : Bool) (noise : Half)
  /-- The byte sources drive `bs_ack`. -/
  | bsAck (level : Bool)
  /-- The sink drives `sk_ready`. -/
  | skReady (level : Bool)
  /-- The converter's completion step with the reading it draws (42_capability_operations R179; log 10). -/
  | convDone (r : Half)
  /-- Another owner leaves the converter in this state (42_capability_operations R181, 70_reset_and_hazards R229; log 14). -/
  | foreign (c : Converter)
  /-- The platform changes one byte of a byte source (20_memory R52, R73; log 7). -/
  | sourceWrite (src : BitVec 1) (pos : Half) (b : Byte)
  deriving DecidableEq, Repr, Inhabited

namespace Config

/-- `NSAMP` (00_scope R5). -/
def nSamp : Nat := 100

/-- `K_REF` (00_scope R5). -/
def kRef : Nat := 1126400

/-- `NUM` = `K_REF` x `NSAMP` (00_scope R5), the dividend of 40_voltage_sampler R121, as the 32-bit operand of the divider. -/
def num : BitVec 32 := 112640000#32

/-- `ROW_COLS` (00_scope R5). -/
def rowCols : BitVec 5 := 16#5

/-- `PRINT_LO` (00_scope R5). -/
def printLo : Byte := 0x20#8

/-- `PRINT_HI` (00_scope R5). -/
def printHi : Byte := 0x7E#8

/-- `SENTINEL` (00_scope R6). -/
def sentinel : Half := 0#16

/-- The narrowing this hardware takes (00_scope R6, 92 D10); every statement is made for both (log 8). -/
def resultNarrowing : Narrowing := .wrap

/-- `F_CLK` in Hz: open, the spec gives no value (00_scope R6; log 9). -/
opaque fClkHz : Nat

/-- The reference `SETTLE_CYCLES`, ceil(100 us x `F_CLK`) (00_scope R6; log 9). -/
def referenceSettleCycles (fHz : Nat) : Nat := (fHz + 9999) / 10000

/-- What an unlisted position of a byte source reads as (DESIGN CHOICE, log 6). -/
def unlistedByte : Byte := 0#8

/-- The move taken when none is scripted: no order between the agents is given (00_scope R11, 20_memory R68; log 1). -/
opaque event : Nat → Event

/-- `RAW` after `DIS_ANALOG` (42_capability_operations R175; log 15). -/
opaque freeRaw : Nat → Half

/-- `ACC` after a reset (10_state R45; log 4), and so for the others below. -/
opaque freeAcc : Nat → BitVec 32
opaque freeSamp : Nat → BitVec 7
opaque freeSettle : Nat → Nat
opaque freeResult : Nat → Half
opaque freeAddr : Nat → Half
opaque freeCount : Nat → Half
opaque freeSrc : Nat → BitVec 1
opaque freeCol : Nat → BitVec 5
opaque freeIdx : Nat → BitVec 4
opaque freeCur : Nat → Byte
opaque freeTail : Nat → Vector Byte 16
opaque freeTlen : Nat → BitVec 5

end Config

end Sys2Proof
end

