-- ==== Sys2Proof/Syntax.lean ====
section
/-!
DEFINITION. The operations of the block, one constructor per row of spec/opcode_table.json, and the words that carry them on
the four ports (30_encoding R81, R88, R89).
-/

namespace Sys2Proof

/-- The two host commands and the eight primitive operations (00_scope, inventory item 3). -/
inductive Instr where
  /-- `MEASURE` (40_voltage_sampler R110). -/
  | measure
  /-- `RENDER src, start_offset, count` (41_hex_renderer R140); `RENDERM` and `RENDERS` are spellings of it (R100). -/
  | render (src : BitVec 1) (startOffset count : Half)
  /-- `EN_ANALOG` (42_capability_operations R170). -/
  | enAnalog
  /-- `CFG_REF` (R171). -/
  | cfgRef
  /-- `TRIG` (R172). -/
  | trig
  /-- `POLL` (R173). -/
  | poll
  /-- `RD_RAW` (R174). -/
  | rdRaw
  /-- `DIS_ANALOG` (R175). -/
  | disAnalog
  /-- `BS_READ` with the source select and the position (R176). -/
  | bsRead (src : BitVec 1) (pos : Half)
  /-- `SK_PUT` with the end-of-line mark and the byte (R177). -/
  | skPut (eol : Bool) (data : Byte)
  deriving DecidableEq, Repr

/-- A word on one of the four ports that carry operations: the command port, and the CC, BS and SK ports. -/
inductive PortWord where
  | cw (w : CommandWord)
  | cc (w : CcWord)
  | bs (w : BsWord)
  | sk (w : SkWord)
  deriving DecidableEq, Repr

/-- The six converter-control operations (30_encoding R88). -/
inductive CcOp where
  | enAnalog
  | cfgRef
  | trig
  | poll
  | rdRaw
  | disAnalog
  deriving DecidableEq, Repr

end Sys2Proof
end

