-- ==== Sys2Proof/Machine/State.lean ====
section
/-!
DEFINITION. The state of the machine as plain data (10_state R20, R44): the registers of VS and HR, `CMD_ERR`, the input wires, the
items of the environment the block depends on, and the model's own bookkeeping; the reasons a step can stop; the state after reset.
-/

namespace Sys2Proof.Machine

/-- `VS_STATE` (10_state R22). -/
inductive VsState where
  | rstdis
  | idle
  | enable
  | config
  | settle
  | trig
  | poll
  | read
  | disable
  | div
  deriving DecidableEq, Repr

/-- `HR_STATE` (10_state R28). -/
inductive HrState where
  | idle
  | addr
  | slot
  | hex
  | pad
  | sep
  | tail
  | cr
  | lf
  deriving DecidableEq, Repr

/-- The registers of unit VS (10_state R22 to R27). -/
structure VsRegs where
  /-- `VS_STATE` -/
  state : VsState
  /-- `ACC` -/
  acc : BitVec 32
  /-- `SAMP` -/
  samp : BitVec 7
  /-- `SETTLE`, wide enough to hold `SETTLE_CYCLES` -/
  settle : Nat
  /-- `RESULT` -/
  result : Half
  /-- `VS_DONE` -/
  done : Bool
  /-- `VS_NOREAD` -/
  noread : Bool
  /-- `VS_RANGE` -/
  range : Bool
  deriving DecidableEq, Repr

/-- The registers of unit HR (10_state R28 to R36). -/
structure HrRegs where
  /-- `HR_STATE` -/
  state : HrState
  /-- `ADDR` -/
  addr : Half
  /-- `COUNT` -/
  count : Half
  /-- `SRC` -/
  src : BitVec 1
  /-- `COL` -/
  col : BitVec 5
  /-- `IDX` -/
  idx : BitVec 4
  /-- `CUR` -/
  cur : Byte
  /-- `TAIL[0..15]` -/
  tail : Vector Byte 16
  /-- `TLEN` -/
  tlen : BitVec 5
  /-- `HR_DONE` -/
  done : Bool
  deriving DecidableEq, Repr

/-- The input wires of the block, at the level the environment holds them (20_memory R53, R58, R61, R74). -/
structure Pins where
  /-- `rst` -/
  rst : Bool
  /-- `cmd_valid` -/
  cmdValid : Bool
  /-- `cmd_word` -/
  cmdWord : CommandWord
  /-- `cc_ack` -/
  ccAck : Bool
  /-- what stands on the bits of `cc_rdata` that the operation does not define (93 U9; log 16) -/
  ccNoise : Half
  /-- `bs_ack` -/
  bsAck : Bool
  /-- `sk_ready` -/
  skReady : Bool
  deriving DecidableEq, Repr

/-- One byte the sink has taken, with its end-of-line mark (20_memory R57, R58). -/
structure SinkItem where
  eol : Bool
  data : Byte
  deriving DecidableEq, Repr

/-- The arguments of the model (00_scope R6; 92 D10, D11): no move changes them. -/
structure Params where
  /-- `RESULT_NARROWING` -/
  narrowing : Narrowing
  /-- `F_CLK` in Hz -/
  fClkHz : Nat
  /-- `SETTLE_CYCLES` -/
  settleCycles : Nat
  deriving DecidableEq, Repr

/-- The content of the two byte sources (20_memory R50 to R52): the positions that do not hold `Config.unlistedByte`, by
strictly rising address; the address of a position is `sourceAddress` (Operands). -/
abbrev Memory := List Host.Cell

/-- The whole machine. -/
structure State where
  /-- unit VS -/
  vs : VsRegs
  /-- unit HR -/
  hr : HrRegs
  /-- `CMD_ERR` (10_state R37) -/
  cmdErr : Bool
  /-- the input wires -/
  pins : Pins
  /-- the converter (42_capability_operations R178) -/
  conv : Converter
  /-- the model's own: the window of exclusive ownership is open (42_capability_operations R181; log 14) -/
  owned : Bool
  /-- the content of the byte sources -/
  sources : Memory
  /-- what the sink has received, oldest first (20_memory R57) -/
  sink : List SinkItem
  /-- the arguments of the model -/
  params : Params
  /-- the model's own: the moves still to come, oldest first (log 1) -/
  script : List Event
  /-- the model's own: free moves drawn so far (log 1) -/
  eventIx : Nat
  /-- the model's own: free values drawn so far (log 4, 15) -/
  freeIx : Nat
  deriving DecidableEq, Repr

/-- No step of this machine stops with a fault: every fault condition of 60_exceptions R190 is a flag or a wait for ever, and
there is no trap (R194; log 28). -/
inductive Fault where
  deriving DecidableEq, Repr

/-- Why a step, or the meaning of an operation, is refused. Each is safe: nothing is claimed of a run that stops so. -/
inductive Refusal where
  /-- An operation that has no meaning yet. Raised by no arm of `exec`; safe. -/
  | notModelled (mnemonic : String)
  /-- Raised by the meaning of a primitive operation given to `exec` in a state in which no unit issues it (40_voltage_sampler
  R124, 41_hex_renderer R155, 30_encoding R99); `step` never does that; safe (log 13). -/
  | notIssued
  /-- Raised by the meaning of a converter operation in a converter state no contract covers (42_capability_operations R182);
  safe (log 12). -/
  | converterUnspecified
  /-- Raised by the move of another owner of the converter while it is VS's: while `VS_BUSY` = 1 (70_reset_and_hazards R229)
  and inside the window of 42_capability_operations R181 (93 U17);
  safe (log 14). -/
  | converterOwned
  deriving DecidableEq, Repr

/-- VS after reset (10_state R45; the unspecified registers: log 3). -/
def VsRegs.reset : VsRegs :=
  { state := .rstdis, acc := 0#32, samp := 0#7, settle := 0, result := 0#16,
    done := false, noread := false, range := false }

/-- HR after reset (10_state R45; the unspecified registers: log 3). -/
def HrRegs.reset : HrRegs :=
  { state := .idle, addr := 0#16, count := 0#16, src := 0#1, col := 0#5, idx := 0#4, cur := 0#8,
    tail := Vector.replicate 16 0#8, tlen := 0#5, done := false }

/-- The input wires right after `rst` has fallen (log 5, 22). -/
def Pins.reset : Pins :=
  { rst := false, cmdValid := false, cmdWord := 0#40, ccAck := false, ccNoise := 0#16, bsAck := false,
    skReady := false }

/-- The converter as the first run finds it (log 5). -/
def converterAtPowerOn : Converter :=
  { anEn := false, refCfg := false, convBusy := false, raw := 0#16, rawReady := false, refAge := 0 }

/-- The arguments of the model at reset (00_scope R6; log 8, 9). -/
def Params.reset : Params :=
  { narrowing := Config.resultNarrowing, fClkHz := Config.fClkHz,
    settleCycles := Config.referenceSettleCycles Config.fClkHz }

/-- The machine right after reset (10_state R45, 70_reset_and_hazards R215, R217). -/
def State.reset : State :=
  { vs := VsRegs.reset, hr := HrRegs.reset, cmdErr := false, pins := Pins.reset, conv := converterAtPowerOn,
    owned := false, sources := [], sink := [], params := Params.reset, script := [], eventIx := 0, freeIx := 0 }

/-- Writing the registers of VS. -/
def State.setVs (s : State) (x : VsRegs) : State := { s with vs := x }

/-- Writing the registers of HR. -/
def State.setHr (s : State) (x : HrRegs) : State := { s with hr := x }

/-- Writing `CMD_ERR`. -/
def State.setCmdErr (s : State) (x : Bool) : State := { s with cmdErr := x }

/-- Driving the input wires. -/
def State.setPins (s : State) (x : Pins) : State := { s with pins := x }

/-- Changing the converter. -/
def State.setConv (s : State) (x : Converter) : State := { s with conv := x }

/-- Opening or closing the window of ownership. -/
def State.setOwned (s : State) (x : Bool) : State := { s with owned := x }

/-- Changing the content of the byte sources. -/
def State.setSources (s : State) (x : Memory) : State := { s with sources := x }

/-- Changing what the sink has received. -/
def State.setSink (s : State) (x : List SinkItem) : State := { s with sink := x }

/-- Changing the moves still to come. -/
def State.setScript (s : State) (x : List Event) : State := { s with script := x }

/-- Counting the free moves drawn. -/
def State.setEventIx (s : State) (x : Nat) : State := { s with eventIx := x }

/-- Counting the free values drawn. -/
def State.setFreeIx (s : State) (x : Nat) : State := { s with freeIx := x }

end Sys2Proof.Machine
end

