-- ==== Sys2Proof/Machine/Flags.lean ====
section
/-!
DEFINITION. The result and the flags of a measurement (40_voltage_sampler R120 to R123) and the two ports that show them to the host
(10_state R40 to R42).
-/

namespace Sys2Proof.Machine

/-- The quotient `NUM` div `ACC`, for `ACC` ≠ 0 (40_voltage_sampler R121). -/
def quotient (acc : BitVec 32) : BitVec 32 := Config.num / acc

/-- A quotient that does not fit 16 bits: `q[31:16] != 0` (40_voltage_sampler R123). -/
def tooWide (q : BitVec 32) : Bool := q.extractLsb' 16 16 != 0#16

/-- `narrow(q)` (40_voltage_sampler R123). -/
def narrow (m : Narrowing) (q : BitVec 32) : Half :=
  match m with
  | .wrap => q.extractLsb' 0 16
  | .saturate => if tooWide q then 0xFFFF#16 else q.extractLsb' 0 16

/-- `VS_NOREAD` of a completed measurement (40_voltage_sampler R122). -/
def noReadFlag (acc : BitVec 32) : Bool := acc == 0#32

/-- `VS_RANGE` of a completed measurement (40_voltage_sampler R120, R123). -/
def rangeFlag (acc : BitVec 32) : Bool := if acc = 0#32 then false else tooWide (quotient acc)

/-- `RESULT` of a completed measurement: the sentinel for a zero sum, without a division, else the narrowed quotient
(40_voltage_sampler R120 to R123). -/
def resultOf (m : Narrowing) (acc : BitVec 32) : Half :=
  if acc = 0#32 then Config.sentinel else narrow m (quotient acc)

/-- `VS_BUSY` (10_state R22). -/
def vsBusy (s : State) : Bool := s.vs.state != .idle

/-- `HR_BUSY` (10_state R28). -/
def hrBusy (s : State) : Bool := s.hr.state != .idle

/-- The STATUS port, bit 7 first (10_state R40). -/
def status (s : State) : BitVec 8 :=
  0#1 ++ BitVec.ofBool s.cmdErr ++ BitVec.ofBool s.hr.done ++ BitVec.ofBool (hrBusy s)
    ++ BitVec.ofBool s.vs.range ++ BitVec.ofBool s.vs.noread ++ BitVec.ofBool s.vs.done ++ BitVec.ofBool (vsBusy s)

/-- The RESULT port: the register while `VS_DONE` = 1; while it is 0 the spec gives the port no value (10_state R41, R42;
log 17). -/
def resultPort (s : State) : Option Half := if s.vs.done then some s.vs.result else none

end Sys2Proof.Machine
end

