-- ==== Sys2Proof/WellFormed.lean ====
section
/-!
DEFINITION. Well-formed operations. The widths of the operand fields are in the types of `Instr`; what is left to check is what
the spec says of the words the block puts to the sink (30_encoding R95, 20_memory R58).
-/

namespace Sys2Proof

/-- The printable range (00_scope R5, 30_encoding R94). -/
def isPrintable (b : Byte) : Bool := decide (Config.printLo ≤ b) && decide (b ≤ Config.printHi)

/-- The bytes a sink can receive: 0x0A, 0x0D and 0x20 to 0x7E (30_encoding R95). -/
def isSinkByte (b : Byte) : Bool := b == 0x0A#8 || b == 0x0D#8 || isPrintable b

/-- The end-of-line mark stands on the line feed and on nothing else (20_memory R58, 41_hex_renderer R152). -/
def eolMarkFits (eol : Bool) (b : Byte) : Bool := eol == (b == 0x0A#8)

/-- Well-formed operations: a sink word has its mark exactly on the line feed and carries a byte a sink can receive;
every other combination of operand values is legal (30_encoding R85, 20_memory R63). -/
def Instr.wellFormed : Instr → Bool
  | .skPut eol data => eolMarkFits eol data && isSinkByte data
  | .measure => true
  | .render _ _ _ => true
  | .enAnalog => true
  | .cfgRef => true
  | .trig => true
  | .poll => true
  | .rdRaw => true
  | .disAnalog => true
  | .bsRead _ _ => true

end Sys2Proof
end

