-- ==== Sys2Proof/Decode.lean ====
section
/-!
DEFINITION. Decoding and encoding of port words (30_encoding R81 to R89, R101). Decoding is total: a word that is no operation is
rejected by name.
-/

namespace Sys2Proof

/-- Why a port word is no operation. -/
inductive Reject where
  /-- A command word that is neither `MEASURE` nor `RENDER` (30_encoding R86). -/
  | illegalCommand
  /-- Converter code 0b000 or 0b111, which the block never issues (30_encoding R88). -/
  | ccCodeNeverIssued
  deriving DecidableEq, Repr

/-- The outcome of decoding a port word. -/
inductive Decoded where
  | instr (i : Instr)
  | reject (r : Reject)
  deriving DecidableEq, Repr

/-- Decoding of a command word (30_encoding R101). -/
def decodeCommand (w : CommandWord) : Decoded :=
  let opc := w.extractLsb' 32 8
  let a := w.extractLsb' 16 16
  let b := w.extractLsb' 0 16
  if opc = 0x01#8 ∧ a = 0#16 ∧ b = 0#16 then .instr .measure
  else if opc.extractLsb' 1 7 = 0b0001000#7 then .instr (.render (opc.extractLsb' 0 1) a b)
  else .reject .illegalCommand

/-- Decoding of a converter-control code (30_encoding R88). -/
def decodeCc (w : CcWord) : Decoded :=
  if w = 0b001#3 then .instr .enAnalog
  else if w = 0b010#3 then .instr .cfgRef
  else if w = 0b011#3 then .instr .trig
  else if w = 0b100#3 then .instr .poll
  else if w = 0b101#3 then .instr .rdRaw
  else if w = 0b110#3 then .instr .disAnalog
  else .reject .ccCodeNeverIssued

/-- Decoding of a byte-source request (30_encoding R89): bit 16 the source select, bits 15:0 the position. -/
def decodeBs (w : BsWord) : Decoded :=
  .instr (.bsRead (w.extractLsb' 16 1) (w.extractLsb' 0 16))

/-- Decoding of a sink word (30_encoding R89): bit 8 the end-of-line mark, bits 7:0 the byte (log 29). -/
def decodeSk (w : SkWord) : Decoded :=
  .instr (.skPut (w.getLsbD 8) (w.extractLsb' 0 8))

/-- Decoding of the word on a port. -/
def decode : PortWord → Decoded
  | .cw w => decodeCommand w
  | .cc w => decodeCc w
  | .bs w => decodeBs w
  | .sk w => decodeSk w

/-- The code of a converter-control operation (30_encoding R88). -/
def CcOp.code : CcOp → CcWord
  | .enAnalog => 0b001#3
  | .cfgRef => 0b010#3
  | .trig => 0b011#3
  | .poll => 0b100#3
  | .rdRaw => 0b101#3
  | .disAnalog => 0b110#3

/-- The byte-source request word (30_encoding R89). -/
def bsWord (src : BitVec 1) (pos : Half) : BsWord := src ++ pos

/-- The sink word (30_encoding R89). -/
def skWord (eol : Bool) (data : Byte) : SkWord := BitVec.ofBool eol ++ data

/-- The command word of `RENDER` (30_encoding R85). -/
def renderWord (src : BitVec 1) (startOffset count : Half) : CommandWord :=
  (0b0001000#7 ++ src) ++ (startOffset ++ count)

/-- The port word of an operation (30_encoding R84, R85, R88, R89, R101). -/
def encode : Instr → PortWord
  | .measure => .cw 0x0100000000#40
  | .render src startOffset count => .cw (renderWord src startOffset count)
  | .enAnalog => .cc CcOp.enAnalog.code
  | .cfgRef => .cc CcOp.cfgRef.code
  | .trig => .cc CcOp.trig.code
  | .poll => .cc CcOp.poll.code
  | .rdRaw => .cc CcOp.rdRaw.code
  | .disAnalog => .cc CcOp.disAnalog.code
  | .bsRead src pos => .bs (bsWord src pos)
  | .skPut eol data => .sk (skWord eol data)

/-- The spelling `RENDERM a, c`: a dump of the memory buffer (30_encoding R100). -/
def renderM (startOffset count : Half) : Instr := .render 0#1 startOffset count

/-- The spelling `RENDERS a, c`: a dump of the persistent store (30_encoding R100). -/
def renderS (startOffset count : Half) : Instr := .render 1#1 startOffset count

/-- The port word a row of the opcode table stands for, from its width (in bits or rounded up to whole bytes) and its bits
as one number: the width names the port (log 25). -/
def tableWord (nbits w : Nat) : Option PortWord :=
  if nbits = 40 then (if w < 2 ^ 40 then some (.cw (BitVec.ofNat 40 w)) else none)
  else if nbits = 24 ∨ nbits = 17 then (if w < 2 ^ 17 then some (.bs (BitVec.ofNat 17 w)) else none)
  else if nbits = 16 ∨ nbits = 9 then (if w < 2 ^ 9 then some (.sk (BitVec.ofNat 9 w)) else none)
  else if nbits = 8 ∨ nbits = 3 then (if w < 2 ^ 3 then some (.cc (BitVec.ofNat 3 w)) else none)
  else none

/-- The operation the decoder reads from an opcode-table row's bits. -/
def decodeTableWord (nbits w : Nat) : Option Instr :=
  match tableWord nbits w with
  | none => none
  | some p =>
    match decode p with
    | .instr i => some i
    | .reject _ => none

end Sys2Proof
end

