-- ==== Sys2Proof/Machine/Operands.lean ====
section
/-!
DEFINITION. The operands of the operations: the characters of a hex row (30_encoding R92 to R96), the address of a byte-source
position, and the word each unit drives on its ports in each state (20_memory R53, R54, R58, R61).
-/

namespace Sys2Proof.Machine

/-- `hexdigit` (30_encoding R93). -/
def hexdigit (n : BitVec 4) : Byte :=
  if n ≤ 9#4 then 0x30#8 + n.setWidth 8 else 0x37#8 + n.setWidth 8

/-- `proj`, the printable-ASCII projection (30_encoding R94). -/
def proj (b : Byte) : Byte := if isPrintable b then b else 0x2E#8

/-- The space (30_encoding R95). -/
def space : Byte := 0x20#8

/-- The carriage return (30_encoding R95). -/
def carriageReturn : Byte := 0x0D#8

/-- The line feed (30_encoding R95). -/
def lineFeed : Byte := 0x0A#8

/-- Hex digit `k` of the address field, the most significant first: `hexdigit(a[15-4k : 12-4k])` for `k` below 4
(30_encoding R92, R97). -/
def addressDigit (a : Half) (k : Nat) : Byte := hexdigit (a.extractLsb' (12 - 4 * k) 4)

/-- The high hex digit of a byte (30_encoding R96). -/
def highDigit (b : Byte) : Byte := hexdigit (b.extractLsb' 4 4)

/-- The low hex digit of a byte (30_encoding R96). -/
def lowDigit (b : Byte) : Byte := hexdigit (b.extractLsb' 0 4)

/-- Where position `pos` of byte source `src` stands in `State.sources`: 2 x 2^16 addresses (20_memory R50; log 6). -/
def sourceAddress (src : BitVec 1) (pos : Half) : Nat := src.toNat * 65536 + pos.toNat

/-- The size of that address space. -/
def sourceSpace : Nat := 131072

/-- The operation VS issues in each sequencer state (20_memory R61; 40_voltage_sampler R111 to R120, R129). -/
def vsRequest : VsState → Option CcOp
  | .rstdis => some .disAnalog
  | .idle => none
  | .enable => some .enAnalog
  | .config => some .cfgRef
  | .settle => none
  | .trig => some .trig
  | .poll => some .poll
  | .read => some .rdRaw
  | .disable => some .disAnalog
  | .div => none

/-- The CC port: `cc_op` while `cc_req` = 1, nothing while it is 0; idle in reset (20_memory R61, 70_reset_and_hazards R216). -/
def ccPort (s : State) : Option CcWord :=
  if s.pins.rst then none else (vsRequest s.vs.state).map CcOp.code

/-- The BS port: the request word while `bs_req` = 1, which is in the consuming arm of `HR_SLOT`; the position is `ADDR` and
the source `SRC` (20_memory R53, R54; 70_reset_and_hazards R216). -/
def bsPort (s : State) : Option BsWord :=
  if s.pins.rst then none
  else if s.hr.state = .slot ∧ s.hr.count ≠ 0#16 then some (bsWord s.hr.src s.hr.addr)
  else none

/-- The character of the address field at `IDX` (41_hex_renderer R143). -/
def addrChar (h : HrRegs) : Byte :=
  if h.idx < 4#4 then addressDigit h.addr h.idx.toNat else space

/-- The character of a byte field at `IDX` (41_hex_renderer R147); past its end, which no run reaches, the space (log 20). -/
def hexChar (h : HrRegs) : Byte :=
  if h.idx = 0#4 then highDigit h.cur else if h.idx = 1#4 then lowDigit h.cur else space

/-- `TAIL[IDX]` (41_hex_renderer R150). -/
def tailChar (h : HrRegs) : Byte := h.tail[h.idx.toNat]'(h.idx.isLt)

/-- What HR puts in each sequencer state, with the end-of-line mark (41_hex_renderer R143, R147 to R152). -/
def hrPut (h : HrRegs) : Option SinkItem :=
  match h.state with
  | .idle => none
  | .addr => some ⟨false, addrChar h⟩
  | .slot => none
  | .hex => some ⟨false, hexChar h⟩
  | .pad => some ⟨false, space⟩
  | .sep => some ⟨false, space⟩
  | .tail => some ⟨false, tailChar h⟩
  | .cr => some ⟨false, carriageReturn⟩
  | .lf => some ⟨true, lineFeed⟩

/-- The SK port: the sink word while `sk_valid` = 1 (20_memory R58, 70_reset_and_hazards R216). -/
def skPort (s : State) : Option SkWord :=
  if s.pins.rst then none else (hrPut s.hr).map fun x => skWord x.eol x.data

end Sys2Proof.Machine
end

