-- ==== Sys2Proof/Machine/Ops.lean ====
section
/-!
DEFINITION. The shared operations: the content of the byte sources, the transactions on the four ports, the converter's part of
them, raising and clearing fault flags (the block's stand-in for traps), and reset.
-/

namespace Sys2Proof.Machine

/-- What a step answers. -/
abbrev Result := Host.Outcome State Fault Refusal

/-! ## The content of the byte sources (20_memory R50 to R52) -/

/-- The byte at an address. -/
def Memory.read (m : Memory) (a : Nat) : Byte :=
  match m with
  | [] => Config.unlistedByte
  | (x, b) :: rest => if a = x then b else Memory.read rest a

/-- Puts a cell at the head, unless it holds what an unlisted address reads as. -/
def Memory.cons (a : Nat) (b : Byte) (m : Memory) : Memory :=
  if b = Config.unlistedByte then m else (a, b) :: m

/-- Changes the byte at an address, keeping the canonical form. -/
def Memory.write (m : Memory) (a : Nat) (b : Byte) : Memory :=
  match m with
  | [] => Memory.cons a b []
  | (x, c) :: rest =>
    if a < x then Memory.cons a b ((x, c) :: rest)
    else if a = x then Memory.cons a b rest
    else (x, c) :: Memory.write rest a b

/-- Every address of the list is at least `lo`, they rise strictly, lie in the address space, and no cell holds what an
unlisted address reads as. -/
def Memory.wfFrom (lo : Nat) (m : Memory) : Bool :=
  match m with
  | [] => true
  | (x, b) :: rest =>
    decide (lo ≤ x) && decide (x < sourceSpace) && (b != Config.unlistedByte) && Memory.wfFrom (x + 1) rest

/-- The canonical form. -/
def Memory.wf (m : Memory) : Bool := Memory.wfFrom 0 m

/-- `BsRead(s, p)`: the byte the selected source holds at the position (42_capability_operations R176). -/
def sourceByte (s : State) (src : BitVec 1) (pos : Half) : Byte := Memory.read s.sources (sourceAddress src pos)

/-! ## Faults: raising a flag and clearing it (60_exceptions R190, R194, R198, R199) -/

/-- The fault conditions that are recorded (60_exceptions R190). -/
inductive FaultCond where
  | eCmd
  | eNoRead
  | eRange
  deriving DecidableEq, Repr

/-- Raising a fault sets its flag in the step that detects it and transfers control nowhere (60_exceptions R194, R198). -/
def raiseFault (c : FaultCond) (s : State) : State :=
  match c with
  | .eCmd => s.setCmdErr true
  | .eNoRead => s.setVs { s.vs with noread := true }
  | .eRange => s.setVs { s.vs with range := true }

/-- What stands for the return from a fault: `VS_NOREAD` and `VS_RANGE` are cleared, with `VS_DONE` (60_exceptions R199). -/
def clearVsFlags (v : VsRegs) : VsRegs := { v with done := false, noread := false, range := false }

/-! ## The command port (30_encoding R80 to R83) -/

/-- The host lowers `cmd_valid` once its word has been accepted (log 18). -/
def endPresentation (s : State) : State := s.setPins { s.pins with cmdValid := false }

/-- A command for a unit: accepted if the unit is idle and the block is not in reset; else the word waits on the port and
nothing changes (30_encoding R82, 70_reset_and_hazards R215). -/
def acceptCommand (ready : Bool) (s : State) (start : State → State) : Result :=
  if !s.pins.rst && ready then .next (start (endPresentation s)) else .next s

/-- `cmd_ready` for the word presented (30_encoding R82, 70_reset_and_hazards R216). -/
def cmdReady (s : State) : Bool :=
  !s.pins.rst &&
    match decodeCommand s.pins.cmdWord with
    | .instr .measure => s.vs.state == .idle
    | .instr _ => s.hr.state == .idle
    | .reject _ => true

/-- An illegal word is accepted at once, starts nothing and raises `E_CMD` (30_encoding R86, 60_exceptions R191). -/
def acceptIllegal (s : State) : State :=
  if s.pins.rst then s else raiseFault .eCmd (endPresentation s)

/-! ## The converter (42_capability_operations R170 to R182) -/

/-- The converter states in which the contract covers an operation (R182). -/
def ccCovered (op : CcOp) (c : Converter) : Bool :=
  match op with
  | .enAnalog => true
  | .cfgRef => c.anEn
  | .trig => c.anEn && !c.convBusy
  | .poll => c.anEn
  | .rdRaw => c.anEn && c.rawReady
  | .disAnalog => true

/-- The converter acknowledges: `cc_ack` is 1, and `EN_ANALOG` is acknowledged only when no conversion is in flight (R181;
log 11). -/
def ccAcknowledged (op : CcOp) (s : State) : Bool :=
  s.pins.ccAck &&
    match op with
    | .enAnalog => !s.conv.convBusy
    | _ => true

/-- What an operation does to the converter (R170 to R175). -/
def ccEffect (op : CcOp) (freeRaw : Half) (c : Converter) : Converter :=
  match op with
  | .enAnalog => { c with anEn := true }
  | .cfgRef => { c with refCfg := true, refAge := 0 }
  | .trig => { c with convBusy := true }
  | .poll => c
  | .rdRaw => c
  | .disAnalog =>
    { c with anEn := false, refCfg := false, convBusy := false, raw := freeRaw, rawReady := false }

/-- `cc_rdata` at the acknowledge: `CONV_BUSY` in bit 0 for `POLL`, `RAW` for `RD_RAW`; the other bits carry nothing
(30_encoding R88, 42 R173, R174; log 16). -/
def ccRdata (op : CcOp) (s : State) : Half :=
  match op with
  | .poll => s.pins.ccNoise.extractLsb' 1 15 ++ BitVec.ofBool s.conv.convBusy
  | .rdRaw => s.conv.raw
  | _ => s.pins.ccNoise

/-- The window of exclusive ownership opens with `EN_ANALOG` and closes with `DIS_ANALOG` (R181; log 14). -/
def ccOwned (op : CcOp) (owned : Bool) : Bool :=
  match op with
  | .enAnalog => true
  | .disAnalog => false
  | _ => owned

/-- How many free values the operation draws: one, for `RAW`, in `DIS_ANALOG` (R175; log 15). -/
def ccDraws (op : CcOp) : Nat :=
  match op with
  | .disAnalog => 1
  | _ => 0

/-- The environment's side of an acknowledged operation. -/
def ccEnvironment (op : CcOp) (s : State) : State :=
  ((s.setConv (ccEffect op (Config.freeRaw s.freeIx) s.conv)).setOwned (ccOwned op s.owned)).setFreeIx
    (s.freeIx + ccDraws op)

/-- A transaction on the CC port (20_memory R61): only if VS issues the operation; VS waits until it is acknowledged; then the
operation takes effect in the converter and VS takes its step with the answer, in one move. -/
def ccTransact (op : CcOp) (s : State) (vsNext : Half → VsRegs) : Result :=
  if ccPort s ≠ some op.code then .refused .notIssued
  else if !ccAcknowledged op s then .next s
  else if !ccCovered op s.conv then .refused .converterUnspecified
  else .next ((ccEnvironment op s).setVs (vsNext (ccRdata op s)))

/-! ## The byte-source and sink ports (20_memory R53, R58) -/

/-- A read on the BS port: only if HR issues it; HR waits until it is acknowledged; then it takes its step with the byte. -/
def bsTransact (src : BitVec 1) (pos : Half) (s : State) (hrNext : Byte → HrRegs) : Result :=
  if bsPort s ≠ some (bsWord src pos) then .refused .notIssued
  else if !s.pins.bsAck then .next s
  else .next (s.setHr (hrNext (sourceByte s src pos)))

/-- A put on the SK port: only if HR issues it; HR waits until the sink is ready; then the byte is appended to what the sink
has received and HR takes its step. -/
def skTransact (eol : Bool) (data : Byte) (s : State) (hrNext : HrRegs) : Result :=
  if skPort s ≠ some (skWord eol data) then .refused .notIssued
  else if !s.pins.skReady then .next s
  else .next ((s.setSink (s.sink ++ [⟨eol, data⟩])).setHr hrNext)

/-! ## Reset (70_reset_and_hazards R215, R220) -/

/-- VS in reset: the control registers as 10_state R45 gives them, the others free (log 4). -/
def vsInReset (n : Nat) : VsRegs :=
  { state := .rstdis, acc := Config.freeAcc n, samp := Config.freeSamp n, settle := Config.freeSettle n,
    result := Config.freeResult n, done := false, noread := false, range := false }

/-- HR in reset: the control registers as 10_state R45 gives them, the others free (log 4). -/
def hrInReset (n : Nat) : HrRegs :=
  { state := .idle, addr := Config.freeAddr n, count := Config.freeCount n, src := Config.freeSrc n,
    col := Config.freeCol n, idx := Config.freeIdx n, cur := Config.freeCur n, tail := Config.freeTail n,
    tlen := Config.freeTlen n, done := false }

/-- What `rst` = 1 does to the registers; the environment keeps its state (70_reset_and_hazards R215, R220). -/
def resetRegisters (s : State) : State :=
  (((s.setVs (vsInReset s.freeIx)).setHr (hrInReset s.freeIx)).setCmdErr false).setFreeIx (s.freeIx + 1)

/-- The host drives `rst`. -/
def driveReset (level : Bool) (s : State) : State :=
  let t := s.setPins { s.pins with rst := level }
  if level then resetRegisters t else t

end Sys2Proof.Machine
end

