-- ==== Sys2Proof/Machine/ConverterOps.lean ====
section
/-!
DEFINITION. The six converter-control operations (42_capability_operations R170 to R175), each with the VS step that issues it
(40_voltage_sampler R112, R113, R115 to R119, R129).
-/

namespace Sys2Proof.Machine

/-- `EN_ANALOG` (R170) in `VS_ENABLE` (R112). -/
def execEnAnalog (s : State) : Result :=
  ccTransact .enAnalog s fun _ => { s.vs with state := .config }

/-- `CFG_REF` (R171) in `VS_CONFIG` (R113). -/
def execCfgRef (s : State) : Result :=
  ccTransact .cfgRef s fun _ => { s.vs with settle := s.params.settleCycles, state := .settle }

/-- `TRIG` (R172) in `VS_TRIG` (R115). -/
def execTrig (s : State) : Result :=
  ccTransact .trig s fun _ => { s.vs with state := .poll }

/-- `POLL` (R173) in `VS_POLL` (R116): bit 0 of the answer decides, the others are ignored. -/
def execPoll (s : State) : Result :=
  ccTransact .poll s fun r => { s.vs with state := if r.getLsbD 0 then .poll else .read }

/-- `RD_RAW` (R174) in `VS_READ` (R117, R118): all 16 bits of the answer are added. -/
def execRdRaw (s : State) : Result :=
  ccTransact .rdRaw s fun x =>
    { s.vs with
      acc := s.vs.acc + x.setWidth 32
      samp := s.vs.samp + 1#7
      state := if (s.vs.samp + 1#7).toNat = Config.nSamp then .disable else .trig }

/-- `DIS_ANALOG` (R175) in `VS_DISABLE` (R119) and in `VS_RSTDIS` (R129). -/
def execDisAnalog (s : State) : Result :=
  ccTransact .disAnalog s fun _ =>
    { s.vs with state := if s.vs.state = .rstdis then .idle else .div }

end Sys2Proof.Machine
end

