-- ==== Sys2Proof/Machine/Renderer.lean ====
section
/-!
DEFINITION. Unit HR: acceptance of `RENDER`, the step that issues no operation, and the registers after each step that reads or
puts a byte (41_hex_renderer R141 to R152).
-/

namespace Sys2Proof.Machine

/-- HR starts a render (R141); a render of no bytes is complete at once (R142). -/
def startRender (src : BitVec 1) (startOffset count : Half) (s : State) : State :=
  s.setHr { s.hr with
    src := src, addr := startOffset, count := count, idx := 0#4
    done := count == 0#16
    state := if count = 0#16 then .idle else .addr }

/-- `RENDER` at the command port (R140, R141): accepted when HR is idle, else it waits (30_encoding R82). -/
def execRender (src : BitVec 1) (startOffset count : Half) (s : State) : Result :=
  acceptCommand (s.hr.state == .idle) s (startRender src startOffset count)

/-- HR after the read of a slot's byte (R144, R146). -/
def hrAfterRead (h : HrRegs) (b : Byte) : HrRegs :=
  { h with
    cur := b
    count := h.count - 1#16
    addr := h.addr + 1#16
    tail := h.tail.setIfInBounds h.tlen.toNat (proj b)
    tlen := h.tlen + 1#5
    idx := 0#4
    state := .hex }

/-- HR after a character of the address field (R143). -/
def hrAfterAddr (h : HrRegs) : HrRegs :=
  if h.idx < 4#4 then { h with idx := h.idx + 1#4 }
  else { h with idx := 0#4, col := 0#5, tlen := 0#5, state := .slot }

/-- HR after a character of a slot's field, byte field and blank field alike (R147, R148). -/
def hrAfterSlotChar (h : HrRegs) : HrRegs :=
  if h.idx < 2#4 then { h with idx := h.idx + 1#4 }
  else { h with
    idx := 0#4, col := h.col + 1#5
    state := if h.col + 1#5 = Config.rowCols then .sep else .slot }

/-- HR after a character of the ASCII tail (R150). -/
def hrAfterTail (h : HrRegs) : HrRegs :=
  if h.idx.setWidth 5 + 1#5 = h.tlen then { h with state := .cr }
  else { h with idx := h.idx + 1#4 }

/-- HR after the line feed (R152). -/
def hrAfterLf (h : HrRegs) : HrRegs :=
  if h.count = 0#16 then { h with done := true, state := .idle }
  else { h with idx := 0#4, state := .addr }

/-- HR after the sink has taken the character its state puts (R143, R147 to R152). -/
def hrAfterPut (h : HrRegs) : HrRegs :=
  match h.state with
  | .idle => h
  | .addr => hrAfterAddr h
  | .slot => h
  | .hex => hrAfterSlotChar h
  | .pad => hrAfterSlotChar h
  | .sep => { h with idx := 0#4, state := .tail }
  | .tail => hrAfterTail h
  | .cr => { h with state := .lf }
  | .lf => hrAfterLf h

/-- HR after the blank arm of `HR_SLOT` (R145). -/
def hrAfterBlank (h : HrRegs) : HrRegs := { h with idx := 0#4, state := .pad }

/-- A turn of HR in which it issues no operation: the blank arm of `HR_SLOT`, or nothing (R141: an idle unit has no step;
70_reset_and_hazards R215: in reset no step is taken). -/
def hrSilent (s : State) : State :=
  if s.pins.rst then s
  else if s.hr.state = .slot ∧ s.hr.count = 0#16 then s.setHr (hrAfterBlank s.hr)
  else s

end Sys2Proof.Machine
end

