-- ==== Sys2Proof/Machine/Sampler.lean ====
section
/-!
DEFINITION. Unit VS: acceptance of `MEASURE` and the steps that issue no operation (40_voltage_sampler R111, R114, R120). The steps that
issue one are the meanings of ConverterOps.
-/

namespace Sys2Proof.Machine

/-- VS starts a measurement (R111): sum, sample counter and the three flags cleared. -/
def startMeasure (s : State) : State :=
  s.setVs { clearVsFlags s.vs with acc := 0#32, samp := 0#7, state := .enable }

/-- `MEASURE` at the command port (R110, R111): accepted when VS is idle, else it waits (30_encoding R82). -/
def execMeasure (s : State) : Result :=
  acceptCommand (s.vs.state == .idle) s startMeasure

/-- One period of `clk` in `VS_SETTLE` (R114). -/
def settleStep (s : State) : State :=
  let t := s.setConv { s.conv with refAge := s.conv.refAge + 1 }
  if s.vs.settle = 0 then t.setVs { s.vs with state := .trig }
  else t.setVs { s.vs with settle := s.vs.settle - 1 }

/-- `VS_DIV` before its flags are raised (R120): the result, `VS_DONE` and the idle state. -/
def finishMeasure (s : State) : State :=
  s.setVs { s.vs with
    result := resultOf s.params.narrowing s.vs.acc, done := true, noread := false, range := false, state := .idle }

/-- `VS_DIV` (R120 to R123; fault entry as in 60_exceptions R198). -/
def divStep (s : State) : State :=
  let t := finishMeasure s
  if noReadFlag s.vs.acc then raiseFault .eNoRead t
  else if rangeFlag s.vs.acc then raiseFault .eRange t
  else t

/-- A turn of VS in which it issues no operation: `VS_SETTLE`, `VS_DIV`, or nothing (R111: an idle unit has no step;
70_reset_and_hazards R215: in reset no step is taken). -/
def vsSilent (s : State) : State :=
  if s.pins.rst then s
  else
    match s.vs.state with
    | .settle => settleStep s
    | .div => divStep s
    | _ => s

end Sys2Proof.Machine
end

