-- ==== Sys2Proof/Machine/StreamOps.lean ====
section
/-!
DEFINITION. The two operations of HR on the environment, each with the HR step that issues it (42_capability_operations R176, R177;
41_hex_renderer R143, R144, R147 to R152).
-/

namespace Sys2Proof.Machine

/-- `BS_READ` (R176) in the consuming arm of `HR_SLOT` (R144). -/
def execBsRead (src : BitVec 1) (pos : Half) (s : State) : Result :=
  bsTransact src pos s (hrAfterRead s.hr)

/-- `SK_PUT` (R177) in the seven states that put a character (R143, R147 to R152). -/
def execSkPut (eol : Bool) (data : Byte) (s : State) : Result :=
  skTransact eol data s (hrAfterPut s.hr)

end Sys2Proof.Machine
end

