-- ==== Sys2Proof/Machine/Dispatch.lean ====
section
/-!
DEFINITION. The meaning of each operation, one arm per row of spec/opcode_table.json.
-/

namespace Sys2Proof.Machine

def exec (i : Instr) (s : State) : Host.Outcome State Fault Refusal :=
  match i with
  | .measure => Sys2Proof.Machine.execMeasure s
  | .render src startOffset count => Sys2Proof.Machine.execRender src startOffset count s
  | .enAnalog => Sys2Proof.Machine.execEnAnalog s
  | .cfgRef => Sys2Proof.Machine.execCfgRef s
  | .trig => Sys2Proof.Machine.execTrig s
  | .poll => Sys2Proof.Machine.execPoll s
  | .rdRaw => Sys2Proof.Machine.execRdRaw s
  | .disAnalog => Sys2Proof.Machine.execDisAnalog s
  | .bsRead src pos => Sys2Proof.Machine.execBsRead src pos s
  | .skPut eol data => Sys2Proof.Machine.execSkPut eol data s

end Sys2Proof.Machine
end

