-- ==== Sys2Proof/Machine/Environment.lean ====
section
/-!
DEFINITION. Which move comes next, the port word it carries if it carries one, and what a move does that carries none: the silent steps
of the units and the steps of the environment (00_scope R11; 20_memory R52, R73; 42_capability_operations R179, R181;
70_reset_and_hazards R215, R229, R234).
-/

namespace Sys2Proof.Machine

/-- The next move: the oldest of the script, or a free one (00_scope R11, 20_memory R68; log 1). -/
def nextEvent (s : State) : Event :=
  match s.script with
  | [] => Config.event s.eventIx
  | e :: _ => e

/-- The state with that move taken off. -/
def takeEvent (s : State) : State :=
  match s.script with
  | [] => s.setEventIx (s.eventIx + 1)
  | _ :: rest => s.setScript rest

/-- The word HR drives: a read request or a put, never both (20_memory R53, R58). -/
def hrWord (s : State) : Option PortWord :=
  match bsPort s with
  | some w => some (.bs w)
  | none => (skPort s).map PortWord.sk

/-- The port word a move carries: what VS or HR drives, or the word the host presents. -/
def fetchWord (e : Event) (s : State) : Option PortWord :=
  match e with
  | .vs => (ccPort s).map PortWord.cc
  | .hr => hrWord s
  | .dispatch => if s.pins.cmdValid then some (.cw s.pins.cmdWord) else none
  | _ => none

/-- The converter's completion step (42_capability_operations R179); without a conversion in flight it has none. -/
def completeConversion (r : Half) (s : State) : State :=
  if s.conv.convBusy then s.setConv { s.conv with convBusy := false, raw := r, rawReady := true } else s

/-- The converter is VS's alone: while `VS_BUSY` = 1 (70_reset_and_hazards R229), and from the acknowledge of `EN_ANALOG` to that
of `DIS_ANALOG` (42_capability_operations R181), which in a run lies inside it. -/
def converterReserved (s : State) : Bool := vsBusy s || s.owned

/-- Another owner's move: the converter is left in any state where it is not VS's alone; where it is, the move is refused
(93 U17; log 14). -/
def foreignMove (c : Converter) (s : State) : Result :=
  if converterReserved s then .refused .converterOwned else .next (s.setConv c)

/-- A move that carries no port word. -/
def otherMove (e : Event) (s : State) : Result :=
  match e with
  | .vs => .next (vsSilent s)
  | .hr => .next (hrSilent s)
  | .dispatch => .next s
  | .present w => .next (s.setPins { s.pins with cmdValid := true, cmdWord := w })
  | .withdraw => .next (s.setPins { s.pins with cmdValid := false })
  | .reset level => .next (driveReset level s)
  | .ccAck level noise => .next (s.setPins { s.pins with ccAck := level, ccNoise := noise })
  | .bsAck level => .next (s.setPins { s.pins with bsAck := level })
  | .skReady level => .next (s.setPins { s.pins with skReady := level })
  | .convDone r => .next (completeConversion r s)
  | .foreign c => foreignMove c s
  | .sourceWrite src pos b => .next (s.setSources (Memory.write s.sources (sourceAddress src pos) b))

/-- A port word that is no operation: an illegal command word is accepted and flagged (30_encoding R86); no unit ever drives
another (30_encoding R88). -/
def rejectedWord (r : Reject) (s : State) : Result :=
  match r with
  | .illegalCommand => .next (acceptIllegal s)
  | .ccCodeNeverIssued => .refused .notIssued

end Sys2Proof.Machine
end

