-- ==== Sys2Proof/Machine/Place.lean ====
section
/-!
DEFINITION. Putting an operation where the next step takes it from (log 2): the block has no program counter (10_state R21), so the
word goes to the port it belongs to, and the unit that issues it is put in the sequencer state that does.
-/

namespace Sys2Proof.Machine

/-- The next move is `e`, the block is not in reset. -/
def placeMove (e : Event) (s : State) : State :=
  (s.setScript (e :: s.script)).setPins { s.pins with rst := false }

/-- The sequencer state in which VS issues an operation, kept if VS is in one already (20_memory R61). -/
def issuingState (op : CcOp) (v : VsState) : VsState :=
  if vsRequest v = some op then v
  else
    match op with
    | .enAnalog => .enable
    | .cfgRef => .config
    | .trig => .trig
    | .poll => .poll
    | .rdRaw => .read
    | .disAnalog => .disable

/-- The converter as VS finds it when it issues the operation (40_voltage_sampler R124, 42_capability_operations R181). -/
def handedOver (op : CcOp) (c : Converter) : Converter :=
  match op with
  | .enAnalog => { c with convBusy := false }
  | .cfgRef => { c with anEn := true, convBusy := false }
  | .trig => { c with anEn := true, refCfg := true, convBusy := false }
  | .poll => { c with anEn := true, refCfg := true }
  | .rdRaw => { c with anEn := true, refCfg := true, convBusy := false, rawReady := true }
  | .disAnalog => c

/-- Whether the window of R181 is open when VS issues the operation; unknown for `DIS_ANALOG`, which follows a reset too. -/
def ownedAt (op : CcOp) (owned : Bool) : Bool :=
  match op with
  | .enAnalog => false
  | .disAnalog => owned
  | _ => true

/-- VS is about to issue a converter operation and the converter acknowledges it. -/
def placeCc (op : CcOp) (s : State) : State :=
  let t := placeMove .vs s
  (((t.setPins { t.pins with ccAck := true }).setVs { s.vs with state := issuingState op s.vs.state }).setConv
    (handedOver op s.conv)).setOwned (ownedAt op s.owned)

/-- HR is about to read and the byte source acknowledges. -/
def placeBs (src : BitVec 1) (pos : Half) (s : State) : State :=
  let t := placeMove .hr s
  (t.setPins { t.pins with bsAck := true }).setHr { s.hr with
    state := .slot, src := src, addr := pos, count := if s.hr.count = 0#16 then 1#16 else s.hr.count }

/-- HR is about to put a character and the sink is ready: the line feed in `HR_LF`, any other as the first character of an
ASCII tail. -/
def placeSk (eol : Bool) (data : Byte) (s : State) : State :=
  let t := placeMove .hr s
  (t.setPins { t.pins with skReady := true }).setHr
    (if eol then { s.hr with state := .lf }
     else { s.hr with state := .tail, idx := 0#4, tail := s.hr.tail.setIfInBounds 0 data, tlen := 1#5 })

/-- The host presents a command word and the unit it is for is idle. -/
def placeCommand (w : CommandWord) (s : State) : State :=
  let t := placeMove .dispatch s
  let u := t.setPins { t.pins with cmdValid := true, cmdWord := w }
  match decodeCommand w with
  | .instr .measure => u.setVs { s.vs with state := .idle }
  | .instr _ => u.setHr { s.hr with state := .idle }
  | .reject _ => u

/-- The converter operation an instruction is, if it is one. -/
def ccOpOf : Instr → Option CcOp
  | .enAnalog => some .enAnalog
  | .cfgRef => some .cfgRef
  | .trig => some .trig
  | .poll => some .poll
  | .rdRaw => some .rdRaw
  | .disAnalog => some .disAnalog
  | .measure => none
  | .render _ _ _ => none
  | .bsRead _ _ => none
  | .skPut _ _ => none

/-- Puts a port word where the next step takes it from; a word the decoder rejects is placed only on the command port. -/
def placeWord (p : PortWord) (s : State) : State :=
  match p with
  | .cw w => placeCommand w s
  | _ =>
    match decode p with
    | .instr (.bsRead src pos) => placeBs src pos s
    | .instr (.skPut eol data) => placeSk eol data s
    | .instr i =>
      match ccOpOf i with
      | some op => placeCc op s
      | none => s
    | .reject _ => s

end Sys2Proof.Machine
end

