-- ==== Sys2Proof/Machine/Step.lean ====
section
/-!
DEFINITION. One step of the machine: the next move is taken; if it carries a port word the word is decoded and its operation executed.
-/

namespace Sys2Proof.Machine

/-- One step (00_scope R11). -/
def step (s : State) : Host.Outcome State Fault Refusal :=
  match fetchWord (nextEvent s) (takeEvent s) with
  | none => otherMove (nextEvent s) (takeEvent s)
  | some p =>
    match decode p with
    | .instr i => exec i (takeEvent s)
    | .reject r => rejectedWord r (takeEvent s)

/-- The state with an opcode-table row's bits placed where `step` takes its next operation from (log 2, 25). -/
def State.withFetchWord (s : State) (nbits w : Nat) : State :=
  match tableWord nbits w with
  | none => s
  | some p => placeWord p s

end Sys2Proof.Machine
end

