-- ==== Sys2Proof/Safety.lean ====
section
/-!
DEFINITION. What a good run is, in the terms the statements use: the duties of the environment, the invariant of the machine, the text a
render must produce (30_encoding R90), and the moves of a whole render and a whole measurement.
-/

namespace Sys2Proof.Machine

/-! ## Duties of the environment -/

/-- The integrator's duty: `SETTLE_CYCLES` periods are at least 70 us (00_scope R6, 70_reset_and_hazards R233). -/
def settleTimeOk (p : Params) : Prop := 70 * p.fClkHz ≤ 1000000 * p.settleCycles

/-- The converter's duty: a reading is at most 1023 (42_capability_operations R179). -/
def readingInRange (r : Half) : Prop := r ≤ 1023#16

/-! ## The invariant of the machine -/

/-- VS is between the acknowledges of `CFG_REF` and `DIS_ANALOG`: its window is open and the converter is powered and
configured (42_capability_operations R181). -/
def converterHeld (s : State) : Prop := s.owned = true ∧ s.conv.anEn = true ∧ s.conv.refCfg = true

/-- The sum is at most 65,535 for each reading added (40_voltage_sampler R118). -/
def sumBounded (v : VsRegs) : Prop := v.acc.toNat ≤ v.samp.toNat * 65535

/-- A conversion of the measurement is under way: the settle wait is over and fewer than 100 readings are added. -/
def sampling (s : State) : Prop :=
  converterHeld s ∧ s.vs.samp.toNat < Config.nSamp ∧ sumBounded s.vs ∧ s.params.settleCycles < s.conv.refAge

/-- What holds of VS and the converter in each sequencer state (40_voltage_sampler R111 to R120, R129; 42 R172, R181;
70_reset_and_hazards R229, R230). -/
def vsInv (s : State) : Prop :=
  match s.vs.state with
  | .rstdis => True
  | .idle => s.owned = false
  | .enable => s.owned = false ∧ s.vs.acc = 0#32 ∧ s.vs.samp = 0#7
  | .config =>
    s.owned = true ∧ s.conv.anEn = true ∧ s.conv.convBusy = false ∧ s.vs.acc = 0#32 ∧ s.vs.samp = 0#7
  | .settle =>
    converterHeld s ∧ s.conv.convBusy = false ∧ s.vs.acc = 0#32 ∧ s.vs.samp = 0#7 ∧
      s.conv.refAge + s.vs.settle = s.params.settleCycles
  | .trig => sampling s ∧ s.conv.convBusy = false
  | .poll => sampling s ∧ (s.conv.convBusy = true ∨ s.conv.rawReady = true)
  | .read => sampling s ∧ s.conv.convBusy = false ∧ s.conv.rawReady = true
  | .disable =>
    converterHeld s ∧ s.conv.convBusy = false ∧ s.vs.samp.toNat = Config.nSamp ∧ sumBounded s.vs
  | .div =>
    s.owned = false ∧ s.conv.anEn = false ∧ s.conv.refCfg = false ∧ s.conv.convBusy = false ∧
      s.vs.samp.toNat = Config.nSamp ∧ sumBounded s.vs

/-- `VS_DONE` = 1 only in `VS_IDLE`, with the result and flags of the sum `ACC` still holds; `VS_DONE` = 0 with both fault flags
clear (10_state R27, 40_voltage_sampler R120, R127). -/
def vsFlagsInv (p : Params) (v : VsRegs) : Prop :=
  (v.done = true →
    v.state = .idle ∧ v.samp.toNat = Config.nSamp ∧ sumBounded v ∧
      v.result = resultOf p.narrowing v.acc ∧ v.noread = noReadFlag v.acc ∧ v.range = rangeFlag v.acc) ∧
  (v.done = false → v.noread = false ∧ v.range = false)

/-- The part of the ASCII tail recorded so far is printable (30_encoding R94, 10_state R35). -/
def tailPrintable (h : HrRegs) : Prop := ∀ i : Fin 16, i.val < h.tlen.toNat → isPrintable h.tail[i] = true

/-- Past the hex field of a row: 1 to 16 bytes consumed, 16 of them if bytes remain (41_hex_renderer R149, R154). -/
def rowConsumed (h : HrRegs) : Prop :=
  1 ≤ h.tlen.toNat ∧ h.tlen.toNat ≤ 16 ∧ (h.count ≠ 0#16 → h.tlen.toNat = 16) ∧ tailPrintable h

/-- What holds of HR in each sequencer state (41_hex_renderer R141 to R152, R154). -/
def hrInv (h : HrRegs) : Prop :=
  match h.state with
  | .idle => True
  | .addr => h.idx.toNat ≤ 4 ∧ h.count ≠ 0#16
  | .slot =>
    h.col.toNat < 16 ∧ h.tlen.toNat ≤ h.col.toNat ∧ (h.count ≠ 0#16 → h.tlen.toNat = h.col.toNat) ∧
      (h.col = 0#5 → h.count ≠ 0#16) ∧ (h.col ≠ 0#5 → 1 ≤ h.tlen.toNat) ∧ tailPrintable h
  | .hex => h.idx.toNat ≤ 2 ∧ h.col.toNat < 16 ∧ h.tlen.toNat = h.col.toNat + 1 ∧ tailPrintable h
  | .pad =>
    h.idx.toNat ≤ 2 ∧ h.col.toNat < 16 ∧ 1 ≤ h.tlen.toNat ∧ h.tlen.toNat ≤ h.col.toNat ∧ h.count = 0#16 ∧
      tailPrintable h
  | .sep => h.col = 16#5 ∧ rowConsumed h
  | .tail => h.idx.toNat < h.tlen.toNat ∧ rowConsumed h
  | .cr => rowConsumed h
  | .lf => rowConsumed h

/-- The sink has received only bytes of 30_encoding R95, with the mark exactly on the line feeds (20_memory R58). -/
def sinkInv (k : List SinkItem) : Prop := ∀ x ∈ k, (Instr.skPut x.eol x.data).wellFormed = true

/-- While `rst` = 1 the control registers have their reset values (70_reset_and_hazards R215). -/
def resetInv (s : State) : Prop :=
  s.pins.rst = true →
    s.vs.state = .rstdis ∧ s.vs.done = false ∧ s.hr.state = .idle ∧ s.hr.done = false ∧ s.cmdErr = false

/-- The invariant of the machine. -/
structure Inv (s : State) : Prop where
  vs : vsInv s
  vsFlags : vsFlagsInv s.params s.vs
  hr : hrInv s.hr
  memory : Memory.wf s.sources = true
  sink : sinkInv s.sink
  inReset : resetInv s

/-! ## The text of a render (30_encoding R90, R91) -/

/-- The address field and its space (30_encoding R90, R92). -/
def addressField (a : Half) : List Byte :=
  [addressDigit a 0, addressDigit a 1, addressDigit a 2, addressDigit a 3, space]

/-- The byte field of a byte (30_encoding R96). -/
def byteField (b : Byte) : List Byte := [highDigit b, lowDigit b, space]

/-- The hex field of a row: a byte field for each byte and three spaces for each of the other slots (30_encoding R90, R96). -/
def hexField (bytes : List Byte) : List Byte :=
  bytes.flatMap byteField ++ List.replicate (3 * (16 - bytes.length)) space

/-- A whole row: address field, hex field, separating space, ASCII tail, carriage return and the marked line feed
(30_encoding R90). -/
def rowItems (a : Half) (bytes : List Byte) : List SinkItem :=
  (addressField a ++ hexField bytes ++ [space] ++ bytes.map proj ++ [carriageReturn]).map (SinkItem.mk false) ++
    [⟨true, lineFeed⟩]

/-- The `n` bytes of a source from position `a` on, positions modulo 2^16 (41_hex_renderer R146). -/
def bytesFrom (m : Memory) (src : BitVec 1) (a : Half) (n : Nat) : List Byte :=
  (List.range n).map fun k => Memory.read m (sourceAddress src (a + BitVec.ofNat 16 k))

/-- The rows of a dump: each of 16 bytes but the last (41_hex_renderer R153, R154). -/
def dumpRows (m : Memory) (src : BitVec 1) : Nat → Half → Nat → List SinkItem
  | 0, _, _ => []
  | rows + 1, a, n => rowItems a (bytesFrom m src a (min n 16)) ++ dumpRows m src rows (a + 16#16) (n - 16)

/-- ceil(count / 16) rows (41_hex_renderer R153). -/
def rowCount (n : Nat) : Nat := (n + 15) / 16

/-- What a render of `count` bytes puts to the sink (41_hex_renderer R140). -/
def dump (m : Memory) (src : BitVec 1) (startOffset count : Half) : List SinkItem :=
  dumpRows m src (rowCount count.toNat) startOffset count.toNat

/-! ## Whole commands as scripts -/

/-- HR's turns in a render of `n` bytes: 56 x ceil(n/16) + n puts, n reads, and the 16 x ceil(n/16) - n blank arms
(41_hex_renderer R155, R158). -/
def renderTurns (n : Nat) : Nat := 72 * rowCount n + n

/-- One accepted `RENDER` with nothing else moving. -/
def renderScript (count : Half) : List Event := .dispatch :: List.replicate (renderTurns count.toNat) .hr

/-- One conversion: `TRIG`, `k` polls answered "in progress", the completion with reading `r`, the poll answered "complete",
`RD_RAW` (40_voltage_sampler R124). -/
def conversionMoves (c : Nat × Half) : List Event :=
  .vs :: (List.replicate c.1 .vs ++ [.convDone c.2, .vs, .vs])

/-- One accepted `MEASURE` with nothing else moving: `EN_ANALOG`, `CFG_REF`, the settle wait, the conversions, `DIS_ANALOG`,
`VS_DIV` (40_voltage_sampler R110, R124). -/
def measureScript (settleCycles : Nat) (conversions : List (Nat × Half)) : List Event :=
  .dispatch :: .vs :: .vs ::
    (List.replicate (settleCycles + 1) .vs ++ conversions.flatMap conversionMoves ++ [.vs, .vs])

/-- The sum of the readings. -/
def readingSum (conversions : List (Nat × Half)) : Nat := (conversions.map fun c => c.2.toNat).sum

end Sys2Proof.Machine
end

