-- ==== Sys2Proof/Certificates/Slice0/Obligations.lean ====
section
/-!
DEFINITION. The statements for the provers. Each docstring names the rules of spec/ it formalises; where a statement rests on a choice of
the model it names the log entry.
-/

open Sys2Proof Sys2Proof.Machine

/-! ## Encoding -/

/-- Decoding the encoding of an operation gives it back, for every operation and every operand value (30_encoding R84, R85, R88,
R89, R101). -/
def Obligations.DecodeOfEncodeIsIdentity : Prop :=
  ∀ i : Instr, decode (encode i) = .instr i

/-- A word that decodes to an operation is that operation's encoding: no two words of a port are one operation (R101: "Encode is the
inverse on the legal words"). -/
def Obligations.EncodeOfDecodeIsTheWord : Prop :=
  ∀ (p : PortWord) (i : Instr), decode p = .instr i → encode i = p

/-- The command words by match and mask (R84, R85), their fields, the encodings as numbers, and nothing else (R101). -/
def Obligations.CommandWordsFollowMatchAndMask : Prop :=
  (∀ w : CommandWord, w &&& 0xFFFFFFFFFF#40 = 0x0100000000#40 → decode (.cw w) = .instr .measure) ∧
  (∀ w : CommandWord, w &&& 0xFE00000000#40 = 0x1000000000#40 →
    decode (.cw w) = .instr (.render (w.extractLsb' 32 1) (w.extractLsb' 16 16) (w.extractLsb' 0 16))) ∧
  (∀ w : CommandWord, w &&& 0xFFFFFFFFFF#40 ≠ 0x0100000000#40 → w &&& 0xFE00000000#40 ≠ 0x1000000000#40 →
    decode (.cw w) = .reject .illegalCommand) ∧
  encode .measure = .cw 0x0100000000#40 ∧
  (∀ (s : BitVec 1) (a c : Half),
    encode (.render s a c) =
      .cw (BitVec.ofNat 40 (0x1000000000 + s.toNat * 2 ^ 32 + a.toNat * 2 ^ 16 + c.toNat)))

/-- Words written out from the spec's encodings (95_test_vectors V1, V4, V7, V9; R88; V34). -/
def Obligations.SpecWordsDecode : Prop :=
  decode (.cw 0x0100000000#40) = .instr .measure ∧
  decode (.cw 0x11FFFFFFFF#40) = .instr (.render 1#1 0xFFFF#16 65535#16) ∧
  decode (.cw 0x0100000001#40) = .reject .illegalCommand ∧
  decode (.cw 0x1200000010#40) = .reject .illegalCommand ∧
  decode (.cc 0b110#3) = .instr .disAnalog ∧
  decode (.bs 0b10000000100000000#17) = .instr (.bsRead 1#1 0x0100#16) ∧
  decode (.sk 0b100001010#9) = .instr (.skPut true 0x0A#8)

/-! ## The step -/

/-- A step takes the next move off; if the move carries a port word that decodes to an operation the step is `exec` of it in the state
without the move; if it carries none, it is the move's own effect (00_scope R11; log 1). -/
def Obligations.StepRunsTheDecodedWord : Prop :=
  ∀ (s : State),
    (∀ (p : PortWord) (i : Instr), fetchWord (nextEvent s) (takeEvent s) = some p → decode p = .instr i →
      step s = exec i (takeEvent s)) ∧
    (fetchWord (nextEvent s) (takeEvent s) = none → step s = otherMove (nextEvent s) (takeEvent s))

/-- What reset leaves in the control registers and on the STATUS port (10_state R45); the other registers hold the values the model
names (log 3) and nothing is said of them. -/
def Obligations.ResetLeavesControlState : Prop :=
  State.reset.vs.state = .rstdis ∧ State.reset.hr.state = .idle ∧ State.reset.vs.done = false ∧
  State.reset.vs.noread = false ∧ State.reset.vs.range = false ∧ State.reset.hr.done = false ∧
  State.reset.cmdErr = false ∧ status State.reset = 0b00000001#8

/-- The invariant holds right after reset. -/
def Obligations.InvariantHoldsAtReset : Prop := Inv State.reset

/-- Every step, whatever the agents do, keeps the invariant: the converter is as VS needs it in every sequencer state and off in `VS_DIV`, at
most 100 readings are added, the settle wait is over before a trigger, `VS_DONE` goes with the result of the sum, a row has 1 to 16 bytes
and a printable tail, the sources keep their canonical form, the sink has received only the bytes of R95 with the mark of 20 R58. Its
clauses rest on choices of the model: the window `owned` and the refusal of other owners (log 14), `EN_ANALOG` waiting for an idle
converter (log 11), `rawReady` and the refusals of R182 (log 12, 15), `refAge` (log 21), the form of the sources' content (log 6). -/
def Obligations.EveryStepKeepsTheInvariant : Prop :=
  ∀ s t : State, Inv s → step s = .next t → Inv t

/-- From a state of the invariant no step is refused but for another owner's move while `VS_BUSY` = 1 (70 R229; log 14): in particular VS
never issues a converter operation the contract does not cover (42 R172, R182; log 12), and no unit drives a word that is no operation. -/
def Obligations.OnlyForeignMovesAreRefused : Prop :=
  ∀ (s : State) (r : Refusal), Inv s → step s = .refused r →
    r = .converterOwned ∧ s.vs.state ≠ .idle ∧ ∃ c, nextEvent s = .foreign c

/-! ## The command port -/

/-- R111: an idle VS accepts `MEASURE`: sum, counter and flags cleared, VS in `VS_ENABLE`, nothing else changed but `cmd_valid`, of which
nothing is said; an idle VS with no command accepted has no step. -/
def Obligations.MeasureAcceptedByIdleSampler : Prop :=
  ∀ s : State, s.vs.state = .idle →
    (s.pins.rst = false → ∃ v : Bool,
      exec .measure s = .next ((s.setPins { s.pins with cmdValid := v }).setVs
        { s.vs with acc := 0#32, samp := 0#7, done := false, noread := false, range := false, state := .enable })) ∧
    (nextEvent s = .vs → step s = .next (takeEvent s))

/-- R141, R142: an idle HR accepts `RENDER`: operands loaded, `IDX` cleared; with no byte to render it is done at once and stays idle;
an idle HR with no command accepted has no step. Nothing is said of `cmd_valid`. -/
def Obligations.RenderAcceptedByIdleRenderer : Prop :=
  ∀ s : State, s.hr.state = .idle →
    (s.pins.rst = false → ∀ (src : BitVec 1) (a c : Half), ∃ v : Bool,
      exec (.render src a c) s = .next ((s.setPins { s.pins with cmdValid := v }).setHr
        (if c = 0#16 then
          { s.hr with src := src, addr := a, count := c, idx := 0#4, done := true, state := .idle }
         else { s.hr with src := src, addr := a, count := c, idx := 0#4, done := false, state := .addr }))) ∧
    (nextEvent s = .hr → step s = .next (takeEvent s))

/-- R82, 70 R215: a command for a busy unit, or given while the block is in reset, is neither dropped nor queued, it waits on the port and
changes nothing. -/
def Obligations.CommandForBusyUnitWaits : Prop :=
  ∀ s : State,
    (s.vs.state ≠ .idle ∨ s.pins.rst = true → exec .measure s = .next s) ∧
    (s.hr.state ≠ .idle ∨ s.pins.rst = true →
      ∀ (src : BitVec 1) (a c : Half), exec (.render src a c) s = .next s)

/-- R82 with the model's choice that acceptance lowers `cmd_valid` (log 18): a word presented leaves the port in a turn of the dispatcher
exactly when `cmd_ready` is 1, and otherwise the turn changes nothing. -/
def Obligations.WordLeavesPortExactlyWhenReady : Prop :=
  ∀ s : State, nextEvent s = .dispatch → s.pins.cmdValid = true →
    ∃ t, step s = .next t ∧ (t.pins.cmdValid = false ↔ cmdReady s = true) ∧
      (cmdReady s = false → t = takeEvent s)

/-- R86: every word other than those of R84 and R85 is accepted at once, starts nothing, changes no register of VS or HR, and sets
`CMD_ERR`, which the host sees on bit 6 of STATUS. Nothing is said of `cmd_valid`. -/
def Obligations.IllegalWordOnlySetsCmdErr : Prop :=
  ∀ s : State, nextEvent s = .dispatch → s.pins.cmdValid = true → s.pins.rst = false →
    (s.pins.cmdWord.extractLsb' 32 8 ≠ 0x01#8 ∧ s.pins.cmdWord.extractLsb' 32 8 ≠ 0x10#8 ∧
        s.pins.cmdWord.extractLsb' 32 8 ≠ 0x11#8 ∨
      s.pins.cmdWord.extractLsb' 32 8 = 0x01#8 ∧
        (s.pins.cmdWord.extractLsb' 16 16 ≠ 0#16 ∨ s.pins.cmdWord.extractLsb' 0 16 ≠ 0#16)) →
    cmdReady s = true ∧ ∃ (v : Bool) (t : State),
      step s = .next t ∧ t = ((takeEvent s).setPins { s.pins with cmdValid := v }).setCmdErr true ∧
      (status t).getLsbD 6 = true

/-- R37, 60 R191: `CMD_ERR` is cleared by reset only and set by the dispatcher on a rejected word only. -/
def Obligations.CmdErrChangesOnlyByIllegalWordOrReset : Prop :=
  ∀ s t : State, step s = .next t →
    (s.cmdErr = true → t.cmdErr = true ∨ nextEvent s = .reset true) ∧
    (s.cmdErr = false → t.cmdErr = true →
      nextEvent s = .dispatch ∧ s.pins.cmdValid = true ∧ decode (.cw s.pins.cmdWord) = .reject .illegalCommand)

/-! ## Converter-control operations -/

/-- R112, 42 R170: `EN_ANALOG` in `VS_ENABLE`, acknowledged: the subsystem is powered, whether or not it was, and VS goes to
`VS_CONFIG`. The converter acknowledges it with no conversion in flight (42 R181; log 11) and the window opens (log 14). -/
def Obligations.EnAnalogPowersTheSubsystem : Prop :=
  ∀ s : State, s.pins.rst = false → s.vs.state = .enable → s.pins.ccAck = true → s.conv.convBusy = false →
    exec .enAnalog s = .next (((s.setConv { s.conv with anEn := true }).setOwned true).setVs
      { s.vs with state := .config })

/-- R113, 42 R171: `CFG_REF` in `VS_CONFIG`, acknowledged: the reference is configured, its age starts (log 21), `SETTLE` is loaded. -/
def Obligations.CfgRefLoadsTheSettleCounter : Prop :=
  ∀ s : State, s.pins.rst = false → s.vs.state = .config → s.pins.ccAck = true → s.conv.anEn = true →
    exec .cfgRef s = .next ((s.setConv { s.conv with refCfg := true, refAge := 0 }).setVs
      { s.vs with settle := s.params.settleCycles, state := .settle })

/-- R115, 42 R172: `TRIG` in `VS_TRIG`, acknowledged: `CONV_BUSY` is 1 in the same step. -/
def Obligations.TrigStartsAConversion : Prop :=
  ∀ s : State, s.pins.rst = false → s.vs.state = .trig → s.pins.ccAck = true → s.conv.anEn = true →
    s.conv.convBusy = false →
    exec .trig s = .next ((s.setConv { s.conv with convBusy := true }).setVs { s.vs with state := .poll })

/-- R116, 42 R173: `POLL` in `VS_POLL`, acknowledged: VS polls again while a conversion is in flight and reads once it is complete,
whatever stands on the other bits of the answer (log 16); nothing else changes. -/
def Obligations.PollObservesCompletion : Prop :=
  ∀ s : State, s.pins.rst = false → s.vs.state = .poll → s.pins.ccAck = true → s.conv.anEn = true →
    (s.conv.convBusy = true → exec .poll s = .next s) ∧
    (s.conv.convBusy = false → exec .poll s = .next (s.setVs { s.vs with state := .read }))

/-- R117, R118, 42 R174: `RD_RAW` in `VS_READ`, acknowledged with a conversion completed (log 12, 15): all 16 bits of the reading are added without a wrap, the sample counter
advances, and the step that takes it to 100 leaves the loop. -/
def Obligations.RdRawAddsTheReading : Prop :=
  ∀ s : State, s.pins.rst = false → s.vs.state = .read → s.pins.ccAck = true → s.conv.anEn = true →
    s.conv.rawReady = true → s.vs.samp.toNat < 100 → s.vs.acc.toNat ≤ s.vs.samp.toNat * 65535 →
    ∃ v : VsRegs,
      exec .rdRaw s = .next (s.setVs v) ∧
      v.acc.toNat = s.vs.acc.toNat + s.conv.raw.toNat ∧ v.samp.toNat = s.vs.samp.toNat + 1 ∧
      v.state = (if s.vs.samp.toNat + 1 = 100 then .disable else .trig) ∧
      v = { s.vs with acc := v.acc, samp := v.samp, state := v.state }

/-- R119, R129, 42 R175: `DIS_ANALOG` in `VS_DISABLE` and in `VS_RSTDIS`, acknowledged: power, configuration and any conversion in flight
are gone, the window closes (log 14); no flag and no result is written. Nothing is said of the value of `RAW` after it (log 15). -/
def Obligations.DisAnalogReleasesTheSubsystem : Prop :=
  ∀ s : State, s.pins.rst = false → (s.vs.state = .disable ∨ s.vs.state = .rstdis) → s.pins.ccAck = true →
    ∃ r : Half,
      exec .disAnalog s = .next ((((s.setConv
        { s.conv with anEn := false, refCfg := false, convBusy := false, raw := r, rawReady := false }).setOwned
          false).setFreeIx (s.freeIx + 1)).setVs
        { s.vs with state := if s.vs.state = .disable then .div else .idle })

/-- 00 R11, 20 R61: until the converter acknowledges, VS waits in the same state and changes nothing. -/
def Obligations.ConverterOpWaitsForAcknowledge : Prop :=
  ∀ (i : Instr) (op : CcOp) (s : State), ccOpOf i = some op → ccPort s = some op.code → s.pins.ccAck = false →
    exec i s = .next s

/-- The model's reading of 42 R181 (log 11): while a conversion someone else started is in flight, `EN_ANALOG` is not acknowledged and VS
waits. -/
def Obligations.EnAnalogWaitsForAnIdleConverter : Prop :=
  ∀ s : State, s.pins.rst = false → s.vs.state = .enable → s.conv.convBusy = true → exec .enAnalog s = .next s

/-- 42 R182 (log 12): an operation in a converter state no contract covers is refused by name: `CFG_REF`, `TRIG`, `POLL`, `RD_RAW` with
`AN_EN` = 0, `TRIG` with a conversion in flight, `RD_RAW` before any conversion has completed. -/
def Obligations.UncoveredConverterOpsAreRefused : Prop :=
  ∀ (i : Instr) (op : CcOp) (s : State), ccOpOf i = some op → ccPort s = some op.code → s.pins.ccAck = true →
    (op = .cfgRef ∧ s.conv.anEn = false ∨ op = .trig ∧ s.conv.anEn = false ∨ op = .poll ∧ s.conv.anEn = false ∨
      op = .rdRaw ∧ s.conv.anEn = false ∨ op = .trig ∧ s.conv.convBusy = true ∨
      op = .rdRaw ∧ s.conv.rawReady = false) →
    exec i s = .refused .converterUnspecified

/-- 40 R124, 41 R155, 30 R99 (log 13): a primitive operation has its effect only where a unit issues it; given to `exec` elsewhere it is
refused by name. -/
def Obligations.PrimitiveOpsRunOnlyWhereIssued : Prop :=
  (∀ (i : Instr) (op : CcOp) (s : State), ccOpOf i = some op → ccPort s ≠ some op.code →
    exec i s = .refused .notIssued) ∧
  (∀ (src : BitVec 1) (pos : Half) (s : State), bsPort s ≠ some (bsWord src pos) →
    exec (.bsRead src pos) s = .refused .notIssued) ∧
  (∀ (eol : Bool) (b : Byte) (s : State), skPort s ≠ some (skWord eol b) →
    exec (.skPut eol b) s = .refused .notIssued)

/-- Frame of the six converter operations: HR, `CMD_ERR`, the wires, every byte of the sources, the sink, the arguments and the script are
unchanged, and of VS only `VS_STATE`, in `CFG_REF` also `SETTLE`, in `RD_RAW` also `ACC` and `SAMP`; of the converter only what R170 to
R175 name (the model's `owned`, `rawReady`, `refAge` and `freeIx` with it). -/
def Obligations.ConverterOpsFrame : Prop :=
  ∀ (i : Instr) (op : CcOp) (s t : State), ccOpOf i = some op → exec i s = .next t →
    t.hr = s.hr ∧ t.cmdErr = s.cmdErr ∧ t.pins = s.pins ∧ t.sink = s.sink ∧ t.params = s.params ∧
    t.script = s.script ∧ t.eventIx = s.eventIx ∧
    (∀ a, Memory.read t.sources a = Memory.read s.sources a) ∧
    t.vs.result = s.vs.result ∧ t.vs.done = s.vs.done ∧ t.vs.noread = s.vs.noread ∧ t.vs.range = s.vs.range ∧
    (op ≠ .cfgRef → t.vs.settle = s.vs.settle) ∧
    (op ≠ .rdRaw → t.vs.acc = s.vs.acc ∧ t.vs.samp = s.vs.samp) ∧
    (op ≠ .enAnalog → op ≠ .disAnalog → t.conv.anEn = s.conv.anEn ∧ t.owned = s.owned) ∧
    (op ≠ .cfgRef → op ≠ .disAnalog → t.conv.refCfg = s.conv.refCfg) ∧
    (op ≠ .cfgRef → t.conv.refAge = s.conv.refAge) ∧
    (op ≠ .trig → op ≠ .disAnalog → t.conv.convBusy = s.conv.convBusy) ∧
    (op ≠ .disAnalog → t.conv.raw = s.conv.raw ∧ t.conv.rawReady = s.conv.rawReady ∧ t.freeIx = s.freeIx)

/-- Frame of the two commands: `MEASURE` changes only VS (not `SETTLE`, not `RESULT`) and `cmd_valid`, `RENDER` only HR (not `COL`, `CUR`,
`TAIL`, `TLEN`) and `cmd_valid`; every byte of the sources is unchanged. -/
def Obligations.CommandsFrame : Prop :=
  ∀ (i : Instr) (s t : State), (i = .measure ∨ ∃ src a c, i = .render src a c) → exec i s = .next t →
    t.cmdErr = s.cmdErr ∧ t.pins = { s.pins with cmdValid := t.pins.cmdValid } ∧ t.conv = s.conv ∧
    t.owned = s.owned ∧ (∀ a, Memory.read t.sources a = Memory.read s.sources a) ∧ t.sink = s.sink ∧
    t.params = s.params ∧ t.script = s.script ∧ t.eventIx = s.eventIx ∧ t.freeIx = s.freeIx ∧
    (i = .measure → t.hr = s.hr ∧ t.vs.settle = s.vs.settle ∧ t.vs.result = s.vs.result) ∧
    (i ≠ .measure → t.vs = s.vs ∧ t.hr.col = s.hr.col ∧ t.hr.cur = s.hr.cur ∧ t.hr.tail = s.hr.tail ∧
      t.hr.tlen = s.hr.tlen)

/-! ## Byte-source and sink operations -/

/-- R144, R146, 20 R54, 42 R176: in the consuming arm of `HR_SLOT` HR asks for position `ADDR` of source `SRC`; acknowledged, the byte is
consumed: `CUR`, `COUNT`, `ADDR` modulo 2^16, the recorded projection, `TLEN`, `IDX`, `HR_STATE`; not acknowledged, HR waits. In a run
the byte is recorded at `TAIL[COL]` and `TLEN` is at most 16. -/
def Obligations.BsReadConsumesOneByte : Prop :=
  ∀ s : State, s.pins.rst = false → s.hr.state = .slot → s.hr.count ≠ 0#16 →
    bsPort s = some (bsWord s.hr.src s.hr.addr) ∧
    (Inv s → s.hr.tlen = s.hr.col ∧ s.hr.tlen.toNat + 1 ≤ 16) ∧
    (s.pins.bsAck = false → exec (.bsRead s.hr.src s.hr.addr) s = .next s) ∧
    (s.pins.bsAck = true →
      ∃ h : HrRegs, exec (.bsRead s.hr.src s.hr.addr) s = .next (s.setHr h) ∧
        h.cur = Memory.read s.sources (sourceAddress s.hr.src s.hr.addr) ∧
        h.count.toNat = s.hr.count.toNat - 1 ∧ h.addr.toNat = (s.hr.addr.toNat + 1) % 2 ^ 16 ∧
        h.src = s.hr.src ∧ h.col = s.hr.col ∧ h.done = s.hr.done ∧ h.idx = 0#4 ∧ h.state = .hex ∧
        h.tlen = s.hr.tlen + 1#5 ∧
        ∀ k : Fin 16, h.tail[k] = if k.val = s.hr.tlen.toNat then
            (if 0x20#8 ≤ h.cur ∧ h.cur ≤ 0x7E#8 then h.cur else 0x2E#8) else s.hr.tail[k])

/-- R143: the address field: four hex digits of `ADDR`, most significant first, and a space; then slot 0. -/
def Obligations.SkPutEmitsTheAddressField : Prop :=
  ∀ (s : State) (b : Byte), s.pins.rst = false → s.pins.skReady = true → s.hr.state = .addr →
    (s.hr.idx = 0#4 ∧ b = hexdigit (s.hr.addr.extractLsb' 12 4) ∨
      s.hr.idx = 1#4 ∧ b = hexdigit (s.hr.addr.extractLsb' 8 4) ∨
      s.hr.idx = 2#4 ∧ b = hexdigit (s.hr.addr.extractLsb' 4 4) ∨
      s.hr.idx = 3#4 ∧ b = hexdigit (s.hr.addr.extractLsb' 0 4) ∨ s.hr.idx = 4#4 ∧ b = 0x20#8) →
    skPort s = some (skWord false b) ∧
    exec (.skPut false b) s = .next ((s.setSink (s.sink ++ [⟨false, b⟩])).setHr
      (if s.hr.idx = 4#4 then { s.hr with idx := 0#4, col := 0#5, tlen := 0#5, state := .slot }
       else { s.hr with idx := s.hr.idx + 1#4 }))

/-- R147, R148: the field of a slot: two hex digits of `CUR` and a space in `HR_HEX`, three spaces in `HR_PAD`; then the next slot, or
the separator after slot 15. -/
def Obligations.SkPutEmitsTheSlotFields : Prop :=
  ∀ (s : State) (b : Byte), s.pins.rst = false → s.pins.skReady = true → s.hr.idx.toNat ≤ 2 →
    (s.hr.state = .hex ∧ (s.hr.idx = 0#4 ∧ b = hexdigit (s.hr.cur.extractLsb' 4 4) ∨
        s.hr.idx = 1#4 ∧ b = hexdigit (s.hr.cur.extractLsb' 0 4) ∨ s.hr.idx = 2#4 ∧ b = 0x20#8) ∨
      s.hr.state = .pad ∧ b = 0x20#8) →
    skPort s = some (skWord false b) ∧
    exec (.skPut false b) s = .next ((s.setSink (s.sink ++ [⟨false, b⟩])).setHr
      (if s.hr.idx = 2#4 then
        { s.hr with
          idx := 0#4, col := s.hr.col + 1#5
          state := if s.hr.col + 1#5 = 16#5 then .sep else .slot }
       else { s.hr with idx := s.hr.idx + 1#4 }))

/-- R149 to R152: the separating space, the recorded tail in order, the carriage return, and the marked line feed, after which another row
starts exactly if bytes remain; no row without a byte reaches the separator. -/
def Obligations.SkPutEmitsTailAndTerminator : Prop :=
  ∀ s : State, s.pins.rst = false → s.pins.skReady = true →
    (s.hr.state = .sep →
      (Inv s → 1 ≤ s.hr.tlen.toNat) ∧
      exec (.skPut false 0x20#8) s = .next ((s.setSink (s.sink ++ [⟨false, 0x20#8⟩])).setHr
        { s.hr with idx := 0#4, state := .tail })) ∧
    (s.hr.state = .tail →
      exec (.skPut false s.hr.tail[s.hr.idx.toNat]) s =
        .next ((s.setSink (s.sink ++ [⟨false, s.hr.tail[s.hr.idx.toNat]⟩])).setHr
          (if s.hr.idx.toNat + 1 = s.hr.tlen.toNat then { s.hr with state := .cr }
           else { s.hr with idx := s.hr.idx + 1#4 }))) ∧
    (s.hr.state = .cr →
      exec (.skPut false 0x0D#8) s = .next ((s.setSink (s.sink ++ [⟨false, 0x0D#8⟩])).setHr
        { s.hr with state := .lf })) ∧
    (s.hr.state = .lf →
      exec (.skPut true 0x0A#8) s = .next ((s.setSink (s.sink ++ [⟨true, 0x0A#8⟩])).setHr
        (if s.hr.count = 0#16 then { s.hr with done := true, state := .idle }
         else { s.hr with idx := 0#4, state := .addr })))

/-- 20 R58, R59: while the sink is not ready HR stands where it is, with the same byte and mark presented, and loses nothing. -/
def Obligations.SkPutWaitsForTheSink : Prop :=
  ∀ (s : State) (eol : Bool) (b : Byte), skPort s = some (skWord eol b) → s.pins.skReady = false →
    exec (.skPut eol b) s = .next s

/-- Every sink word HR drives in a state of the invariant is well-formed: a byte of R95, marked exactly if it is the line feed (R95,
20 R58). -/
def Obligations.DrivenSinkWordsAreWellFormed : Prop :=
  ∀ (s : State) (eol : Bool) (b : Byte), Inv s → skPort s = some (skWord eol b) →
    (Instr.skPut eol b).wellFormed = true ∧ (eol = true ↔ s.hr.state = .lf)

/-- Frame of `BS_READ` and `SK_PUT`: VS, the converter, `CMD_ERR`, the wires, every byte of the sources and the model's own fields are
unchanged; `BS_READ` leaves the sink, `COL`, `SRC` and `HR_DONE` alone; `SK_PUT` leaves `ADDR`, `COUNT`, `SRC`, `CUR` and `TAIL` alone
and appends at most its one byte. -/
def Obligations.StreamOpsFrame : Prop :=
  ∀ (i : Instr) (s t : State), ((∃ src pos, i = .bsRead src pos) ∨ ∃ eol b, i = .skPut eol b) →
    exec i s = .next t →
    t.vs = s.vs ∧ t.cmdErr = s.cmdErr ∧ t.pins = s.pins ∧ t.conv = s.conv ∧ t.owned = s.owned ∧
    (∀ a, Memory.read t.sources a = Memory.read s.sources a) ∧ t.params = s.params ∧ t.script = s.script ∧
    t.eventIx = s.eventIx ∧ t.freeIx = s.freeIx ∧
    t.hr.src = s.hr.src ∧
    (∀ src pos, i = .bsRead src pos → t.sink = s.sink ∧ t.hr.col = s.hr.col ∧ t.hr.done = s.hr.done) ∧
    (∀ eol b, i = .skPut eol b →
      (t.sink = s.sink ∨ t.sink = s.sink ++ [⟨eol, b⟩]) ∧ t.hr.addr = s.hr.addr ∧ t.hr.count = s.hr.count ∧
      t.hr.cur = s.hr.cur ∧ t.hr.tail = s.hr.tail)

/-! ## Steps that issue no operation -/

/-- R145: a slot with no byte left goes to its blank field; nothing else of HR, the sink or the sources changes. -/
def Obligations.BlankSlotIssuesNoRead : Prop :=
  ∀ s : State, nextEvent s = .hr → s.pins.rst = false → s.hr.state = .slot → s.hr.count = 0#16 →
    bsPort s = none ∧ skPort s = none ∧
    step s = .next ((takeEvent s).setHr { s.hr with idx := 0#4, state := .pad })

/-- R114: each turn in `VS_SETTLE` is one period of `clk`: the counter goes down, and at zero VS goes to `VS_TRIG`. -/
def Obligations.SettleCountsDownToTrigger : Prop :=
  ∀ s : State, nextEvent s = .vs → s.pins.rst = false → s.vs.state = .settle →
    (s.vs.settle ≠ 0 →
      step s = .next (((takeEvent s).setConv { s.conv with refAge := s.conv.refAge + 1 }).setVs
        { s.vs with settle := s.vs.settle - 1 })) ∧
    (s.vs.settle = 0 →
      step s = .next (((takeEvent s).setConv { s.conv with refAge := s.conv.refAge + 1 }).setVs
        { s.vs with state := .trig }))

/-- R120 (with R121, R123 and 60 R198): `VS_DIV` issues no operation and always goes on: a zero sum gives the sentinel and `VS_NOREAD`; any other the truncated quotient of 112,640,000,
narrowed to 16 bits by wrap or saturation, with `VS_RANGE` exactly when it is 65,536 or more; `VS_DONE` is set, VS is idle, nothing
else changes. -/
def Obligations.DivisionGivesMillivolts : Prop :=
  ∀ s : State, nextEvent s = .vs → s.pins.rst = false → s.vs.state = .div →
    ccPort s = none ∧ ∃ res : Half,
      step s = .next ((takeEvent s).setVs { s.vs with
        result := res, done := true, state := .idle
        noread := decide (s.vs.acc.toNat = 0)
        range := decide (s.vs.acc.toNat ≠ 0 ∧ 65536 ≤ 112640000 / s.vs.acc.toNat) }) ∧
      (s.vs.acc.toNat = 0 → res = 0#16) ∧
      (s.vs.acc.toNat ≠ 0 → s.params.narrowing = .wrap → res.toNat = 112640000 / s.vs.acc.toNat % 65536) ∧
      (s.vs.acc.toNat ≠ 0 → s.params.narrowing = .saturate →
        res.toNat = min 65535 (112640000 / s.vs.acc.toNat))

/-- R123: the quotient does not fit 16 bits exactly for sums 1 to 1718. -/
def Obligations.RangeFlagExactlyForSmallSums : Prop :=
  ∀ acc : BitVec 32, rangeFlag acc = true ↔ 1 ≤ acc.toNat ∧ acc.toNat ≤ 1718

/-- R122: up to the largest possible sum, under either narrowing, the result is 0x0000 only for the zero sum: the sentinel is never the
result of a division. -/
def Obligations.ZeroResultOnlyForZeroSum : Prop :=
  ∀ (m : Narrowing) (acc : BitVec 32), acc.toNat ≤ 6553500 → (resultOf m acc = 0#16 ↔ acc = 0#32)

/-- R128: with 100 readings of at most 1023 the sum is at most 102,300; a zero sum gives the sentinel, a sum of 1 to 1718 sets `VS_RANGE`, and
for sums 1719 to 102,300 the result is the quotient itself, 65,526 down to 1101, no flag is set, and it does not increase with the sum;
under either narrowing. -/
def Obligations.RealisticSumsGiveTheQuotient : Prop :=
  (∀ readings : List Half, readings.length = 100 → (∀ r ∈ readings, readingInRange r) →
    (readings.map BitVec.toNat).sum ≤ 102300) ∧
  ∀ (m : Narrowing) (acc : BitVec 32), acc.toNat ≤ 102300 →
    (acc.toNat = 0 → resultOf m acc = 0#16 ∧ noReadFlag acc = true) ∧
    (1 ≤ acc.toNat → acc.toNat ≤ 1718 → rangeFlag acc = true) ∧
    (1719 ≤ acc.toNat →
      (resultOf m acc).toNat = 112640000 / acc.toNat ∧ 1101 ≤ (resultOf m acc).toNat ∧
      (resultOf m acc).toNat ≤ 65526 ∧ noReadFlag acc = false ∧ rangeFlag acc = false ∧
      ∀ acc' : BitVec 32, acc.toNat ≤ acc'.toNat → acc'.toNat ≤ 102300 →
        (resultOf m acc').toNat ≤ (resultOf m acc).toNat) ∧
    (acc.toNat = 102300 → (resultOf m acc).toNat = 1101)

/-! ## The environment -/

/-- 42 R179: with a conversion in flight the converter's completion step clears `CONV_BUSY` and leaves the reading in `RAW` (the model's own
`rawReady` with it, log 15); with none it has no step (log 27). -/
def Obligations.ConverterCompletesAConversion : Prop :=
  ∀ (s : State) (r : Half), nextEvent s = .convDone r →
    (s.conv.convBusy = true →
      step s = .next ((takeEvent s).setConv { s.conv with convBusy := false, raw := r, rawReady := true })) ∧
    (s.conv.convBusy = false → step s = .next (takeEvent s))

/-- 42 R172, 70 R228: while `VS_BUSY` = 1, or inside the window of 42 R181 (log 14), `CONV_BUSY` stays 1 until the converter completes that
conversion or `DIS_ANALOG` is acknowledged: no `POLL` can answer "complete" for an earlier conversion. -/
def Obligations.NoStaleCompletion : Prop :=
  ∀ s t : State, (s.vs.state ≠ .idle ∨ s.owned = true) → s.conv.convBusy = true → step s = .next t →
    t.conv.convBusy = true ∨ (∃ r, nextEvent s = .convDone r) ∨
      (nextEvent s = .vs ∧ ccPort s = some CcOp.disAnalog.code ∧ s.pins.ccAck = true)

/-- 70 R229, 42 R181, 93 U17 (log 14): another owner may leave the converter in any state while VS is idle and the window is closed, and is
refused while `VS_BUSY` = 1 and inside the window. -/
def Obligations.ForeignOwnerOnlyOutsideTheWindow : Prop :=
  ∀ (s : State) (c : Converter), nextEvent s = .foreign c →
    (s.vs.state = .idle → s.owned = false → step s = .next ((takeEvent s).setConv c)) ∧
    (s.vs.state ≠ .idle ∨ s.owned = true → step s = .refused .converterOwned)

/-- 20 R52, R73 (log 7): a change of a source's content by the platform is seen by every later read of that position and of no other;
nothing else changes. -/
def Obligations.SourceContentReadsAsWritten : Prop :=
  ∀ (s : State) (src : BitVec 1) (pos : Half) (b : Byte), nextEvent s = .sourceWrite src pos b →
    Memory.wf s.sources = true →
    ∃ m : Memory, step s = .next ((takeEvent s).setSources m) ∧ Memory.wf m = true ∧
      Memory.read m (sourceAddress src pos) = b ∧
      ∀ (src' : BitVec 1) (pos' : Half), (src', pos') ≠ (src, pos) →
        Memory.read m (sourceAddress src' pos') = Memory.read s.sources (sourceAddress src' pos')

/-- 70 R215, R220, 10 R45: `rst` = 1 puts the control registers at their reset values at once and leaves the converter, the content of the
sources, what the sink has taken and the word on the command port as they were; nothing is said of the other registers. -/
def Obligations.ResetAbandonsBothUnits : Prop :=
  ∀ s : State, nextEvent s = .reset true →
    ∃ t, step s = .next t ∧
      t.vs.state = .rstdis ∧ t.vs.done = false ∧ t.vs.noread = false ∧ t.vs.range = false ∧
      t.hr.state = .idle ∧ t.hr.done = false ∧ t.cmdErr = false ∧ status t = 0b00000001#8 ∧
      t.conv = s.conv ∧ t.owned = s.owned ∧ t.sources = s.sources ∧ t.sink = s.sink ∧
      t.params = s.params ∧ t.pins = { s.pins with rst := true }

/-- 70 R216, R215: in reset no request is driven, `cmd_ready` is 0, STATUS shows the reset values, and a turn of a unit or of the dispatcher
changes nothing. -/
def Obligations.NothingMovesInReset : Prop :=
  ∀ s : State, Inv s → s.pins.rst = true →
    ccPort s = none ∧ bsPort s = none ∧ skPort s = none ∧ cmdReady s = false ∧ status s = 0b00000001#8 ∧
    (nextEvent s = .vs ∨ nextEvent s = .hr ∨ nextEvent s = .dispatch → step s = .next (takeEvent s))

/-- 10 R40: the eight bits of STATUS. -/
def Obligations.StatusPortShowsTheFlags : Prop :=
  ∀ s : State,
    (status s).getLsbD 0 = decide (s.vs.state ≠ .idle) ∧ (status s).getLsbD 1 = s.vs.done ∧
    (status s).getLsbD 2 = s.vs.noread ∧ (status s).getLsbD 3 = s.vs.range ∧
    (status s).getLsbD 4 = decide (s.hr.state ≠ .idle) ∧ (status s).getLsbD 5 = s.hr.done ∧
    (status s).getLsbD 6 = s.cmdErr ∧ (status s).getLsbD 7 = false

/-- 10 R41, R42 as the model reads them (log 17): the RESULT port shows the register while `VS_DONE` = 1 and no value while it is 0. -/
def Obligations.ResultPortShowsOnlyACompletedMeasurement : Prop :=
  ∀ s : State,
    (s.vs.done = true → resultPort s = some s.vs.result) ∧ (s.vs.done = false → resultPort s = none)

/-! ## Whole-machine rules -/

/-- R130: the complete state graph of VS. A step leaves `VS_STATE` as it is, or the host resets, or it follows an edge of the graph under
the edge's condition; reset leads to `VS_RSTDIS`, an accepted `MEASURE` to `VS_ENABLE`; and a turn of VS that leaves `VS_STATE` as it is
finds VS idle, waits for an acknowledge, or takes one of the two self-loops under its condition. Of a turn in `VS_ENABLE` with a conversion
of someone else in flight nothing is said of whether it waits (42 R181 excludes its acknowledge). -/
def Obligations.SamplerFollowsItsStateGraph : Prop :=
  ∀ s t : State, step s = .next t →
    (t.vs.state = s.vs.state ∨ (nextEvent s = .reset true ∧ t.vs.state = .rstdis) ∨
    (s.vs.state = .rstdis ∧ t.vs.state = .idle ∧ s.pins.ccAck = true) ∨
    (s.vs.state = .idle ∧ t.vs.state = .enable ∧ nextEvent s = .dispatch ∧ s.pins.cmdValid = true ∧
      s.pins.cmdWord = 0x0100000000#40) ∨
    (s.vs.state = .enable ∧ t.vs.state = .config ∧ s.pins.ccAck = true) ∨
    (s.vs.state = .config ∧ t.vs.state = .settle ∧ s.pins.ccAck = true) ∨
    (s.vs.state = .settle ∧ t.vs.state = .trig ∧ s.vs.settle = 0) ∨
    (s.vs.state = .trig ∧ t.vs.state = .poll ∧ s.pins.ccAck = true) ∨
    (s.vs.state = .poll ∧ t.vs.state = .read ∧ s.pins.ccAck = true ∧ s.conv.convBusy = false) ∨
    (s.vs.state = .read ∧ t.vs.state = .trig ∧ s.pins.ccAck = true ∧ s.vs.samp + 1#7 ≠ 100#7 ∧
      (Inv s → s.vs.samp.toNat + 1 < 100)) ∨
    (s.vs.state = .read ∧ t.vs.state = .disable ∧ s.pins.ccAck = true ∧ s.vs.samp + 1#7 = 100#7) ∨
    (s.vs.state = .disable ∧ t.vs.state = .div ∧ s.pins.ccAck = true) ∨
    (s.vs.state = .div ∧ t.vs.state = .idle)) ∧
    (nextEvent s = .reset true → t.vs.state = .rstdis) ∧
    (nextEvent s = .dispatch → s.pins.cmdValid = true → s.pins.rst = false → s.vs.state = .idle →
      decode (.cw s.pins.cmdWord) = .instr .measure → t.vs.state = .enable) ∧
    (nextEvent s = .vs → s.pins.rst = false → t.vs.state = s.vs.state →
      s.vs.state = .idle ∨ (ccPort s ≠ none ∧ s.pins.ccAck = false) ∨
      (s.vs.state = .settle ∧ s.vs.settle ≠ 0) ∨
      (s.vs.state = .poll ∧ s.pins.ccAck = true ∧ s.conv.convBusy = true) ∨
      (s.vs.state = .enable ∧ s.conv.convBusy = true))

/-- R159: the complete state graph of HR, in the same form: the edges under their conditions; reset and an accepted `RENDER`; and a turn of HR
that leaves `HR_STATE` as it is finds HR idle, waits for the source or the sink, or takes one of the self-loops under its condition. -/
def Obligations.RendererFollowsItsStateGraph : Prop :=
  ∀ s t : State, Inv s → step s = .next t →
    (t.hr.state = s.hr.state ∨ (nextEvent s = .reset true ∧ t.hr.state = .idle) ∨
    (s.hr.state = .idle ∧ t.hr.state = .addr ∧ nextEvent s = .dispatch ∧ s.pins.cmdValid = true ∧
      ∃ src a c, decode (.cw s.pins.cmdWord) = .instr (.render src a c) ∧ c ≠ 0#16) ∨
    (s.hr.state = .addr ∧ t.hr.state = .slot ∧ s.hr.idx = 4#4) ∨
    (s.hr.state = .slot ∧ t.hr.state = .hex ∧ s.hr.count ≠ 0#16 ∧ s.pins.bsAck = true) ∨
    (s.hr.state = .slot ∧ t.hr.state = .pad ∧ s.hr.count = 0#16) ∨
    ((s.hr.state = .hex ∨ s.hr.state = .pad) ∧ t.hr.state = .slot ∧ s.hr.idx = 2#4 ∧ s.hr.col.toNat + 1 < 16) ∨
    ((s.hr.state = .hex ∨ s.hr.state = .pad) ∧ t.hr.state = .sep ∧ s.hr.idx = 2#4 ∧ s.hr.col.toNat + 1 = 16) ∨
    (s.hr.state = .sep ∧ t.hr.state = .tail) ∨
    (s.hr.state = .tail ∧ t.hr.state = .cr ∧ s.hr.idx.toNat + 1 = s.hr.tlen.toNat) ∨
    (s.hr.state = .cr ∧ t.hr.state = .lf) ∨
    (s.hr.state = .lf ∧ t.hr.state = .addr ∧ s.hr.count ≠ 0#16) ∨
    (s.hr.state = .lf ∧ t.hr.state = .idle ∧ s.hr.count = 0#16)) ∧
    (nextEvent s = .reset true → t.hr.state = .idle) ∧
    (∀ src a c, nextEvent s = .dispatch → s.pins.cmdValid = true → s.pins.rst = false → s.hr.state = .idle →
      decode (.cw s.pins.cmdWord) = .instr (.render src a c) → t.hr.state = (if c = 0#16 then .idle else .addr)) ∧
    (nextEvent s = .hr → s.pins.rst = false → t.hr.state = s.hr.state →
      s.hr.state = .idle ∨ (bsPort s ≠ none ∧ s.pins.bsAck = false) ∨ (skPort s ≠ none ∧ s.pins.skReady = false) ∨
      (s.pins.skReady = true ∧
        ((s.hr.state = .addr ∧ s.hr.idx.toNat < 4) ∨
         ((s.hr.state = .hex ∨ s.hr.state = .pad) ∧ s.hr.idx.toNat < 2) ∨
         (s.hr.state = .tail ∧ s.hr.idx.toNat + 1 < s.hr.tlen.toNat))))

/-- R119 with 60 R206: disable before return: `VS_DONE` rises only in the `VS_DIV` step, with the window closed (log 14), and `VS_DIV` is entered only
by an acknowledged `DIS_ANALOG`, after which the subsystem is off; it is still off when `VS_DONE` rises (70 R229, R230). -/
def Obligations.DoneOnlyAfterDisable : Prop :=
  ∀ s t : State, Inv s → step s = .next t →
    (s.vs.done = false → t.vs.done = true →
      s.vs.state = .div ∧ nextEvent s = .vs ∧ s.owned = false ∧ t.conv.anEn = false ∧ t.conv.refCfg = false ∧
      t.conv.convBusy = false) ∧
    (t.vs.state = .div → s.vs.state ≠ .div →
      s.vs.state = .disable ∧ t.conv.anEn = false ∧ t.conv.refCfg = false ∧ t.conv.convBusy = false)

/-- R127: from the `VS_DIV` step on, RESULT and the flags hold until the next `MEASURE` is accepted or the host resets. -/
def Obligations.ResultHoldsUntilNextMeasure : Prop :=
  ∀ s t : State, Inv s → s.vs.done = true → step s = .next t →
    t.vs = s.vs ∨ nextEvent s = .reset true ∨
      (nextEvent s = .dispatch ∧ s.pins.cmdValid = true ∧ s.pins.cmdWord = 0x0100000000#40 ∧ t.vs.state = .enable)

/-- R114, R124, 70 R233: when VS issues `TRIG`, `SETTLE_CYCLES` periods have passed since `CFG_REF`; if the integrator meets R6, that is
70 us; the reference value meets it for every clock. -/
def Obligations.SettleWaitBeforeEveryTrigger : Prop :=
  (∀ s : State, Inv s → ccPort s = some CcOp.trig.code →
    s.params.settleCycles ≤ s.conv.refAge ∧
    (settleTimeOk s.params → 70 * s.params.fClkHz ≤ 1000000 * s.conv.refAge)) ∧
  (∀ f : Nat, settleTimeOk { narrowing := .wrap, fClkHz := f, settleCycles := Config.referenceSettleCycles f })

/-- 20 R50, 10 R20: a turn of VS touches neither HR nor the sources nor the sink nor `CMD_ERR`, and a turn of HR touches neither VS nor the
converter nor the sources nor `CMD_ERR`. -/
def Obligations.UnitsTouchOnlyTheirOwnState : Prop :=
  ∀ s t : State, step s = .next t →
    (nextEvent s = .vs → t.hr = s.hr ∧ t.sources = s.sources ∧ t.sink = s.sink ∧ t.cmdErr = s.cmdErr ∧
      t.pins = s.pins ∧ t.params = s.params) ∧
    (nextEvent s = .hr → t.vs = s.vs ∧ t.conv = s.conv ∧ t.owned = s.owned ∧ t.sources = s.sources ∧
      t.cmdErr = s.cmdErr ∧ t.pins = s.pins ∧ t.params = s.params ∧ t.freeIx = s.freeIx)

/-- 20 R68, 93 U20: a turn of VS and a turn of HR give one outcome in either order, from every state and with every later script. -/
def Obligations.UnitTurnsCommute : Prop :=
  ∀ (s : State) (rest : List Event),
    Host.Core.run core 2 (s.setScript (.vs :: .hr :: rest)) =
      Host.Core.run core 2 (s.setScript (.hr :: .vs :: rest))

/-- R140, R153 to R156 with 30 R90: with the environment answering at once, an accepted `RENDER` runs to its end and appends exactly the
rows of 30 R90 to what the sink had received; the end state is that of R156 and nothing outside HR has changed but `cmd_valid`, which
acceptance lowers (log 18). The order of the moves is a script (log 1). -/
def Obligations.RenderPutsTheWholeDump : Prop :=
  ∀ (s : State) (src : BitVec 1) (a c : Half) (rest : List Event),
    s.pins.rst = false → s.pins.bsAck = true → s.pins.skReady = true → s.hr.state = .idle →
    s.pins.cmdValid = true → s.pins.cmdWord = 0x1000000000#40 + src.setWidth 40 <<< 32 + a.setWidth 40 <<< 16 + c.setWidth 40 →
    s.script = renderScript c ++ rest →
    ∃ h : HrRegs,
      Host.Core.run core (renderScript c).length s =
        .next ((((s.setScript rest).setPins { s.pins with cmdValid := false }).setSink
          (s.sink ++ dump s.sources src a c)).setHr h) ∧
      h.state = .idle ∧ h.done = true ∧ h.addr = a + c ∧ h.count = 0#16 ∧ h.src = src ∧
      (c ≠ 0#16 → h.col = 16#5 ∧ h.tlen.toNat = (c.toNat - 1) % 16 + 1 ∧ h.idx.toNat + 1 = h.tlen.toNat)

/-- 30 R91, 41 R153: a render of `c` bytes puts 56 x ceil(c/16) + c bytes, with one end-of-line mark for each of its ceil(c/16) rows. -/
def Obligations.DumpHasTheStatedLength : Prop :=
  ∀ (m : Memory) (src : BitVec 1) (a c : Half),
    (dump m src a c).length = 56 * ((c.toNat + 15) / 16) + c.toNat ∧
    ((dump m src a c).filter fun x => x.eol).length = (c.toNat + 15) / 16

/-- R110, R118, R124: with the converter answering at once and in contract, an accepted `MEASURE` over any 100 readings, each conversion
answered "in progress" any number of times, ends idle with the exact sum, the result and flags of R120 for it, and the subsystem
released; nothing of HR, the sources or the sink has changed. The order of the moves is a script (log 1); the premise that no conversion is
in flight is R181's duty as the model reads it (log 11); that the window is closed at the end is the model's bit (log 14). -/
def Obligations.MeasureComputesTheSupply : Prop :=
  ∀ (s : State) (conversions : List (Nat × Half)) (rest : List Event),
    conversions.length = 100 → s.pins.rst = false → s.pins.ccAck = true → s.vs.state = .idle →
    s.conv.convBusy = false → s.pins.cmdValid = true → s.pins.cmdWord = 0x0100000000#40 →
    s.script = measureScript s.params.settleCycles conversions ++ rest →
    ∃ t : State,
      Host.Core.run core (measureScript s.params.settleCycles conversions).length s = .next t ∧
      t.vs.state = .idle ∧ t.vs.done = true ∧ t.vs.samp.toNat = 100 ∧
      t.vs.acc.toNat = readingSum conversions ∧
      t.vs.noread = decide (readingSum conversions = 0) ∧
      t.vs.range = decide (readingSum conversions ≠ 0 ∧ 65536 ≤ 112640000 / readingSum conversions) ∧
      (readingSum conversions = 0 → t.vs.result = 0#16) ∧
      (readingSum conversions ≠ 0 → s.params.narrowing = .wrap →
        t.vs.result.toNat = 112640000 / readingSum conversions % 65536) ∧
      (readingSum conversions ≠ 0 → s.params.narrowing = .saturate →
        t.vs.result.toNat = min 65535 (112640000 / readingSum conversions)) ∧
      t.conv.anEn = false ∧ t.conv.refCfg = false ∧ t.conv.convBusy = false ∧ t.owned = false ∧
      t.hr = s.hr ∧ t.sources = s.sources ∧ t.sink = s.sink ∧ t.cmdErr = s.cmdErr ∧ t.params = s.params ∧
      t.script = rest

/-- 70 R229, 42 R181 (log 14): while `VS_BUSY` = 1 the converter changes only by its own completion step and by an operation VS drives and it
acknowledges, but for the model's count of settle periods (log 21). -/
def Obligations.BusyConverterServesOnlyTheSampler : Prop :=
  ∀ s t : State, s.vs.state ≠ .idle → step s = .next t →
    t.conv = { s.conv with refAge := t.conv.refAge } ∨ (∃ r, nextEvent s = .convDone r) ∨
      (nextEvent s = .vs ∧ s.pins.ccAck = true ∧ ∃ op : CcOp, ccPort s = some op.code)
end

