-- ==== Sys2Proof/Laws/Bits.lean ====
section
/-!
SUPPORT. Words put together and taken apart again.
-/

namespace Sys2Proof

theorem extractLsb'_append_high {n m : Nat} (x : BitVec n) (y : BitVec m) : (x ++ y).extractLsb' m n = x := by
  ext i hi
  simp [BitVec.getLsbD_append, hi]

theorem extractLsb'_append_low {n m : Nat} (x : BitVec n) (y : BitVec m) : (x ++ y).extractLsb' 0 m = y := by
  ext i hi
  simp [BitVec.getLsbD_append, hi]

theorem getLsbD_zero_append_ofBool {n : Nat} (x : BitVec n) (b : Bool) :
    (x ++ BitVec.ofBool b).getLsbD 0 = b := by
  rw [BitVec.getLsbD_append]
  cases b <;> rfl

theorem getLsbD_top_ofBool_append {n : Nat} (b : Bool) (x : BitVec n) :
    (BitVec.ofBool b ++ x).getLsbD n = b := by
  rw [BitVec.getLsbD_append]
  cases b <;> simp

/-- The byte-source request HR drives is read back whole (30_encoding R89). -/
theorem decodeBs_bsWord (src : BitVec 1) (pos : Half) : decodeBs (bsWord src pos) = .instr (.bsRead src pos) := by
  unfold decodeBs bsWord
  exact congrArg₂ (fun x y => Decoded.instr (.bsRead x y)) (extractLsb'_append_high src pos)
    (extractLsb'_append_low src pos)

/-- The sink word HR drives is read back whole (30_encoding R89). -/
theorem decodeSk_skWord (eol : Bool) (data : Byte) : decodeSk (skWord eol data) = .instr (.skPut eol data) := by
  unfold decodeSk skWord
  exact congrArg₂ (fun x y => Decoded.instr (.skPut x y)) (getLsbD_top_ofBool_append eol data)
    (extractLsb'_append_low (BitVec.ofBool eol) data)

/-- A command word decodes to `MEASURE`, to a `RENDER`, or to nothing. -/
theorem decodeCommand_cases (w : CommandWord) :
    decodeCommand w = .instr .measure ∨ (∃ src a c, decodeCommand w = .instr (.render src a c)) ∨
      decodeCommand w = .reject .illegalCommand := by
  unfold decodeCommand
  dsimp only
  split
  · exact .inl rfl
  · split
    · exact .inr (.inl ⟨_, _, _, rfl⟩)
    · exact .inr (.inr rfl)

end Sys2Proof
end

