-- ==== Sys2Proof/Laws/Memory.lean ====
section
/-!
SUPPORT. The content of the byte sources: a read after a write, and the canonical form.
-/

namespace Sys2Proof.Machine

theorem Memory.wfFrom_mono {lo lo' : Nat} (h : lo' ≤ lo) {m : Memory} (hm : Memory.wfFrom lo m = true) :
    Memory.wfFrom lo' m = true := by
  cases m with
  | nil => rfl
  | cons x rest =>
    simp only [Memory.wfFrom, Bool.and_eq_true, decide_eq_true_eq] at hm ⊢
    exact ⟨⟨⟨by omega, hm.1.1.2⟩, hm.1.2⟩, hm.2⟩

/-- An address below all listed ones reads as unlisted. -/
theorem Memory.read_of_wfFrom {lo a : Nat} {m : Memory} (hm : Memory.wfFrom lo m = true) (h : a < lo) :
    Memory.read m a = Config.unlistedByte := by
  induction m generalizing lo with
  | nil => rfl
  | cons x rest ih =>
    simp only [Memory.wfFrom, Bool.and_eq_true, decide_eq_true_eq] at hm
    have hx : a ≠ x.1 := by omega
    simp only [Memory.read, hx, if_false]
    exact ih hm.2 (by omega)

theorem Memory.wfFrom_cons {lo a : Nat} {b : Byte} {m : Memory} (hlo : lo ≤ a) (ha : a < sourceSpace)
    (hm : Memory.wfFrom (a + 1) m = true) : Memory.wfFrom lo (Memory.cons a b m) = true := by
  unfold Memory.cons
  split
  · exact Memory.wfFrom_mono (by omega) hm
  · rename_i hb
    simp [Memory.wfFrom, hlo, ha, hb, hm]

theorem Memory.wfFrom_write {lo a : Nat} {b : Byte} {m : Memory} (hm : Memory.wfFrom lo m = true) (hlo : lo ≤ a)
    (ha : a < sourceSpace) : Memory.wfFrom lo (Memory.write m a b) = true := by
  induction m generalizing lo with
  | nil => exact Memory.wfFrom_cons hlo ha rfl
  | cons x rest ih =>
    obtain ⟨x, c⟩ := x
    have hm' := hm
    simp only [Memory.wfFrom, Bool.and_eq_true, decide_eq_true_eq] at hm'
    obtain ⟨⟨⟨h1, h2⟩, h3⟩, h4⟩ := hm'
    simp only [Memory.write]
    split
    · refine Memory.wfFrom_cons hlo ha ?_
      simp only [Memory.wfFrom, Bool.and_eq_true, decide_eq_true_eq]
      exact ⟨⟨⟨by omega, h2⟩, h3⟩, h4⟩
    · split
      · rename_i _ he
        subst he
        exact Memory.wfFrom_cons hlo ha h4
      · simp only [Memory.wfFrom, Bool.and_eq_true, decide_eq_true_eq]
        exact ⟨⟨⟨h1, h2⟩, h3⟩, ih h4 (by omega)⟩

/-- The one memory operation that changes the content keeps the canonical form. -/
theorem Memory.wf_write {m : Memory} {a : Nat} {b : Byte} (hm : Memory.wf m = true) (ha : a < sourceSpace) :
    Memory.wf (Memory.write m a b) = true := Memory.wfFrom_write hm (Nat.zero_le a) ha

theorem sourceAddress_lt (src : BitVec 1) (pos : Half) : sourceAddress src pos < sourceSpace := by
  have h1 := src.isLt
  have h2 := pos.isLt
  simp only [sourceAddress, sourceSpace] at *
  omega

/-- Two positions have one address only if they are the same position of the same source. -/
theorem sourceAddress_inj {src src' : BitVec 1} {pos pos' : Half}
    (h : sourceAddress src pos = sourceAddress src' pos') : src = src' ∧ pos = pos' := by
  have h1 := pos.isLt
  have h2 := pos'.isLt
  simp only [sourceAddress] at h
  exact ⟨BitVec.eq_of_toNat_eq (by omega), BitVec.eq_of_toNat_eq (by omega)⟩

theorem Memory.read_cons_ne {a x : Nat} {b : Byte} {m : Memory} (h : x ≠ a) :
    Memory.read (Memory.cons a b m) x = Memory.read m x := by
  unfold Memory.cons
  split
  · rfl
  · simp [Memory.read, h]

theorem Memory.read_cons_same {lo a : Nat} {b : Byte} {m : Memory} (hm : Memory.wfFrom lo m = true) (h : a < lo) :
    Memory.read (Memory.cons a b m) a = b := by
  unfold Memory.cons
  split
  · rename_i hb
    rw [Memory.read_of_wfFrom hm h, hb]
  · simp [Memory.read]

/-- A read of the address written gives the byte written. -/
theorem Memory.read_write_same {lo a : Nat} {b : Byte} {m : Memory} (hm : Memory.wfFrom lo m = true) :
    Memory.read (Memory.write m a b) a = b := by
  induction m generalizing lo with
  | nil => exact Memory.read_cons_same (lo := a + 1) rfl (by omega)
  | cons x rest ih =>
    obtain ⟨x, c⟩ := x
    have hm' := hm
    simp only [Memory.wfFrom, Bool.and_eq_true, decide_eq_true_eq] at hm'
    simp only [Memory.write]
    split
    · rename_i hlt
      refine Memory.read_cons_same (lo := x) ?_ hlt
      simp only [Memory.wfFrom, Bool.and_eq_true, decide_eq_true_eq]
      exact ⟨⟨⟨Nat.le_refl x, hm'.1.1.2⟩, hm'.1.2⟩, hm'.2⟩
    · split
      · rename_i _ he
        subst he
        exact Memory.read_cons_same hm'.2 (by omega)
      · rename_i _ hne
        simp only [Memory.read, hne, if_false]
        exact ih hm'.2

/-- A write leaves every other address as it was. -/
theorem Memory.read_write_ne {a x : Nat} {b : Byte} {m : Memory} (h : x ≠ a) :
    Memory.read (Memory.write m a b) x = Memory.read m x := by
  induction m with
  | nil => exact Memory.read_cons_ne h
  | cons y rest ih =>
    obtain ⟨y, c⟩ := y
    simp only [Memory.write]
    split
    · exact Memory.read_cons_ne h
    · split
      · rename_i _ he
        subst he
        rw [Memory.read_cons_ne h]
        simp [Memory.read, h]
      · simp only [Memory.read, ih]

end Sys2Proof.Machine
end

