-- ==== Sys2Proof/Laws/State.lean ====
section
/-!
SUPPORT. What each update of the state leaves in each field: one lemma per field per update.
-/

namespace Sys2Proof.Machine

/-! ## setVs -/

@[simp] theorem State.setVs_vs (s : State) (x : VsRegs) : (s.setVs x).vs = x := rfl
@[simp] theorem State.setVs_hr (s : State) (x : VsRegs) : (s.setVs x).hr = s.hr := rfl
@[simp] theorem State.setVs_cmdErr (s : State) (x : VsRegs) : (s.setVs x).cmdErr = s.cmdErr := rfl
@[simp] theorem State.setVs_pins (s : State) (x : VsRegs) : (s.setVs x).pins = s.pins := rfl
@[simp] theorem State.setVs_conv (s : State) (x : VsRegs) : (s.setVs x).conv = s.conv := rfl
@[simp] theorem State.setVs_owned (s : State) (x : VsRegs) : (s.setVs x).owned = s.owned := rfl
@[simp] theorem State.setVs_sources (s : State) (x : VsRegs) : (s.setVs x).sources = s.sources := rfl
@[simp] theorem State.setVs_sink (s : State) (x : VsRegs) : (s.setVs x).sink = s.sink := rfl
@[simp] theorem State.setVs_params (s : State) (x : VsRegs) : (s.setVs x).params = s.params := rfl
@[simp] theorem State.setVs_script (s : State) (x : VsRegs) : (s.setVs x).script = s.script := rfl
@[simp] theorem State.setVs_eventIx (s : State) (x : VsRegs) : (s.setVs x).eventIx = s.eventIx := rfl
@[simp] theorem State.setVs_freeIx (s : State) (x : VsRegs) : (s.setVs x).freeIx = s.freeIx := rfl

/-! ## setHr -/

@[simp] theorem State.setHr_vs (s : State) (x : HrRegs) : (s.setHr x).vs = s.vs := rfl
@[simp] theorem State.setHr_hr (s : State) (x : HrRegs) : (s.setHr x).hr = x := rfl
@[simp] theorem State.setHr_cmdErr (s : State) (x : HrRegs) : (s.setHr x).cmdErr = s.cmdErr := rfl
@[simp] theorem State.setHr_pins (s : State) (x : HrRegs) : (s.setHr x).pins = s.pins := rfl
@[simp] theorem State.setHr_conv (s : State) (x : HrRegs) : (s.setHr x).conv = s.conv := rfl
@[simp] theorem State.setHr_owned (s : State) (x : HrRegs) : (s.setHr x).owned = s.owned := rfl
@[simp] theorem State.setHr_sources (s : State) (x : HrRegs) : (s.setHr x).sources = s.sources := rfl
@[simp] theorem State.setHr_sink (s : State) (x : HrRegs) : (s.setHr x).sink = s.sink := rfl
@[simp] theorem State.setHr_params (s : State) (x : HrRegs) : (s.setHr x).params = s.params := rfl
@[simp] theorem State.setHr_script (s : State) (x : HrRegs) : (s.setHr x).script = s.script := rfl
@[simp] theorem State.setHr_eventIx (s : State) (x : HrRegs) : (s.setHr x).eventIx = s.eventIx := rfl
@[simp] theorem State.setHr_freeIx (s : State) (x : HrRegs) : (s.setHr x).freeIx = s.freeIx := rfl

/-! ## setCmdErr -/

@[simp] theorem State.setCmdErr_vs (s : State) (x : Bool) : (s.setCmdErr x).vs = s.vs := rfl
@[simp] theorem State.setCmdErr_hr (s : State) (x : Bool) : (s.setCmdErr x).hr = s.hr := rfl
@[simp] theorem State.setCmdErr_cmdErr (s : State) (x : Bool) : (s.setCmdErr x).cmdErr = x := rfl
@[simp] theorem State.setCmdErr_pins (s : State) (x : Bool) : (s.setCmdErr x).pins = s.pins := rfl
@[simp] theorem State.setCmdErr_conv (s : State) (x : Bool) : (s.setCmdErr x).conv = s.conv := rfl
@[simp] theorem State.setCmdErr_owned (s : State) (x : Bool) : (s.setCmdErr x).owned = s.owned := rfl
@[simp] theorem State.setCmdErr_sources (s : State) (x : Bool) : (s.setCmdErr x).sources = s.sources := rfl
@[simp] theorem State.setCmdErr_sink (s : State) (x : Bool) : (s.setCmdErr x).sink = s.sink := rfl
@[simp] theorem State.setCmdErr_params (s : State) (x : Bool) : (s.setCmdErr x).params = s.params := rfl
@[simp] theorem State.setCmdErr_script (s : State) (x : Bool) : (s.setCmdErr x).script = s.script := rfl
@[simp] theorem State.setCmdErr_eventIx (s : State) (x : Bool) : (s.setCmdErr x).eventIx = s.eventIx := rfl
@[simp] theorem State.setCmdErr_freeIx (s : State) (x : Bool) : (s.setCmdErr x).freeIx = s.freeIx := rfl

/-! ## setPins -/

@[simp] theorem State.setPins_vs (s : State) (x : Pins) : (s.setPins x).vs = s.vs := rfl
@[simp] theorem State.setPins_hr (s : State) (x : Pins) : (s.setPins x).hr = s.hr := rfl
@[simp] theorem State.setPins_cmdErr (s : State) (x : Pins) : (s.setPins x).cmdErr = s.cmdErr := rfl
@[simp] theorem State.setPins_pins (s : State) (x : Pins) : (s.setPins x).pins = x := rfl
@[simp] theorem State.setPins_conv (s : State) (x : Pins) : (s.setPins x).conv = s.conv := rfl
@[simp] theorem State.setPins_owned (s : State) (x : Pins) : (s.setPins x).owned = s.owned := rfl
@[simp] theorem State.setPins_sources (s : State) (x : Pins) : (s.setPins x).sources = s.sources := rfl
@[simp] theorem State.setPins_sink (s : State) (x : Pins) : (s.setPins x).sink = s.sink := rfl
@[simp] theorem State.setPins_params (s : State) (x : Pins) : (s.setPins x).params = s.params := rfl
@[simp] theorem State.setPins_script (s : State) (x : Pins) : (s.setPins x).script = s.script := rfl
@[simp] theorem State.setPins_eventIx (s : State) (x : Pins) : (s.setPins x).eventIx = s.eventIx := rfl
@[simp] theorem State.setPins_freeIx (s : State) (x : Pins) : (s.setPins x).freeIx = s.freeIx := rfl

/-! ## setConv -/

@[simp] theorem State.setConv_vs (s : State) (x : Converter) : (s.setConv x).vs = s.vs := rfl
@[simp] theorem State.setConv_hr (s : State) (x : Converter) : (s.setConv x).hr = s.hr := rfl
@[simp] theorem State.setConv_cmdErr (s : State) (x : Converter) : (s.setConv x).cmdErr = s.cmdErr := rfl
@[simp] theorem State.setConv_pins (s : State) (x : Converter) : (s.setConv x).pins = s.pins := rfl
@[simp] theorem State.setConv_conv (s : State) (x : Converter) : (s.setConv x).conv = x := rfl
@[simp] theorem State.setConv_owned (s : State) (x : Converter) : (s.setConv x).owned = s.owned := rfl
@[simp] theorem State.setConv_sources (s : State) (x : Converter) : (s.setConv x).sources = s.sources := rfl
@[simp] theorem State.setConv_sink (s : State) (x : Converter) : (s.setConv x).sink = s.sink := rfl
@[simp] theorem State.setConv_params (s : State) (x : Converter) : (s.setConv x).params = s.params := rfl
@[simp] theorem State.setConv_script (s : State) (x : Converter) : (s.setConv x).script = s.script := rfl
@[simp] theorem State.setConv_eventIx (s : State) (x : Converter) : (s.setConv x).eventIx = s.eventIx := rfl
@[simp] theorem State.setConv_freeIx (s : State) (x : Converter) : (s.setConv x).freeIx = s.freeIx := rfl

/-! ## setOwned -/

@[simp] theorem State.setOwned_vs (s : State) (x : Bool) : (s.setOwned x).vs = s.vs := rfl
@[simp] theorem State.setOwned_hr (s : State) (x : Bool) : (s.setOwned x).hr = s.hr := rfl
@[simp] theorem State.setOwned_cmdErr (s : State) (x : Bool) : (s.setOwned x).cmdErr = s.cmdErr := rfl
@[simp] theorem State.setOwned_pins (s : State) (x : Bool) : (s.setOwned x).pins = s.pins := rfl
@[simp] theorem State.setOwned_conv (s : State) (x : Bool) : (s.setOwned x).conv = s.conv := rfl
@[simp] theorem State.setOwned_owned (s : State) (x : Bool) : (s.setOwned x).owned = x := rfl
@[simp] theorem State.setOwned_sources (s : State) (x : Bool) : (s.setOwned x).sources = s.sources := rfl
@[simp] theorem State.setOwned_sink (s : State) (x : Bool) : (s.setOwned x).sink = s.sink := rfl
@[simp] theorem State.setOwned_params (s : State) (x : Bool) : (s.setOwned x).params = s.params := rfl
@[simp] theorem State.setOwned_script (s : State) (x : Bool) : (s.setOwned x).script = s.script := rfl
@[simp] theorem State.setOwned_eventIx (s : State) (x : Bool) : (s.setOwned x).eventIx = s.eventIx := rfl
@[simp] theorem State.setOwned_freeIx (s : State) (x : Bool) : (s.setOwned x).freeIx = s.freeIx := rfl

/-! ## setSources -/

@[simp] theorem State.setSources_vs (s : State) (x : Memory) : (s.setSources x).vs = s.vs := rfl
@[simp] theorem State.setSources_hr (s : State) (x : Memory) : (s.setSources x).hr = s.hr := rfl
@[simp] theorem State.setSources_cmdErr (s : State) (x : Memory) : (s.setSources x).cmdErr = s.cmdErr := rfl
@[simp] theorem State.setSources_pins (s : State) (x : Memory) : (s.setSources x).pins = s.pins := rfl
@[simp] theorem State.setSources_conv (s : State) (x : Memory) : (s.setSources x).conv = s.conv := rfl
@[simp] theorem State.setSources_owned (s : State) (x : Memory) : (s.setSources x).owned = s.owned := rfl
@[simp] theorem State.setSources_sources (s : State) (x : Memory) : (s.setSources x).sources = x := rfl
@[simp] theorem State.setSources_sink (s : State) (x : Memory) : (s.setSources x).sink = s.sink := rfl
@[simp] theorem State.setSources_params (s : State) (x : Memory) : (s.setSources x).params = s.params := rfl
@[simp] theorem State.setSources_script (s : State) (x : Memory) : (s.setSources x).script = s.script := rfl
@[simp] theorem State.setSources_eventIx (s : State) (x : Memory) : (s.setSources x).eventIx = s.eventIx := rfl
@[simp] theorem State.setSources_freeIx (s : State) (x : Memory) : (s.setSources x).freeIx = s.freeIx := rfl

/-! ## setSink -/

@[simp] theorem State.setSink_vs (s : State) (x : List SinkItem) : (s.setSink x).vs = s.vs := rfl
@[simp] theorem State.setSink_hr (s : State) (x : List SinkItem) : (s.setSink x).hr = s.hr := rfl
@[simp] theorem State.setSink_cmdErr (s : State) (x : List SinkItem) : (s.setSink x).cmdErr = s.cmdErr := rfl
@[simp] theorem State.setSink_pins (s : State) (x : List SinkItem) : (s.setSink x).pins = s.pins := rfl
@[simp] theorem State.setSink_conv (s : State) (x : List SinkItem) : (s.setSink x).conv = s.conv := rfl
@[simp] theorem State.setSink_owned (s : State) (x : List SinkItem) : (s.setSink x).owned = s.owned := rfl
@[simp] theorem State.setSink_sources (s : State) (x : List SinkItem) : (s.setSink x).sources = s.sources := rfl
@[simp] theorem State.setSink_sink (s : State) (x : List SinkItem) : (s.setSink x).sink = x := rfl
@[simp] theorem State.setSink_params (s : State) (x : List SinkItem) : (s.setSink x).params = s.params := rfl
@[simp] theorem State.setSink_script (s : State) (x : List SinkItem) : (s.setSink x).script = s.script := rfl
@[simp] theorem State.setSink_eventIx (s : State) (x : List SinkItem) : (s.setSink x).eventIx = s.eventIx := rfl
@[simp] theorem State.setSink_freeIx (s : State) (x : List SinkItem) : (s.setSink x).freeIx = s.freeIx := rfl

/-! ## setScript -/

@[simp] theorem State.setScript_vs (s : State) (x : List Event) : (s.setScript x).vs = s.vs := rfl
@[simp] theorem State.setScript_hr (s : State) (x : List Event) : (s.setScript x).hr = s.hr := rfl
@[simp] theorem State.setScript_cmdErr (s : State) (x : List Event) : (s.setScript x).cmdErr = s.cmdErr := rfl
@[simp] theorem State.setScript_pins (s : State) (x : List Event) : (s.setScript x).pins = s.pins := rfl
@[simp] theorem State.setScript_conv (s : State) (x : List Event) : (s.setScript x).conv = s.conv := rfl
@[simp] theorem State.setScript_owned (s : State) (x : List Event) : (s.setScript x).owned = s.owned := rfl
@[simp] theorem State.setScript_sources (s : State) (x : List Event) : (s.setScript x).sources = s.sources := rfl
@[simp] theorem State.setScript_sink (s : State) (x : List Event) : (s.setScript x).sink = s.sink := rfl
@[simp] theorem State.setScript_params (s : State) (x : List Event) : (s.setScript x).params = s.params := rfl
@[simp] theorem State.setScript_script (s : State) (x : List Event) : (s.setScript x).script = x := rfl
@[simp] theorem State.setScript_eventIx (s : State) (x : List Event) : (s.setScript x).eventIx = s.eventIx := rfl
@[simp] theorem State.setScript_freeIx (s : State) (x : List Event) : (s.setScript x).freeIx = s.freeIx := rfl

/-! ## setEventIx -/

@[simp] theorem State.setEventIx_vs (s : State) (x : Nat) : (s.setEventIx x).vs = s.vs := rfl
@[simp] theorem State.setEventIx_hr (s : State) (x : Nat) : (s.setEventIx x).hr = s.hr := rfl
@[simp] theorem State.setEventIx_cmdErr (s : State) (x : Nat) : (s.setEventIx x).cmdErr = s.cmdErr := rfl
@[simp] theorem State.setEventIx_pins (s : State) (x : Nat) : (s.setEventIx x).pins = s.pins := rfl
@[simp] theorem State.setEventIx_conv (s : State) (x : Nat) : (s.setEventIx x).conv = s.conv := rfl
@[simp] theorem State.setEventIx_owned (s : State) (x : Nat) : (s.setEventIx x).owned = s.owned := rfl
@[simp] theorem State.setEventIx_sources (s : State) (x : Nat) : (s.setEventIx x).sources = s.sources := rfl
@[simp] theorem State.setEventIx_sink (s : State) (x : Nat) : (s.setEventIx x).sink = s.sink := rfl
@[simp] theorem State.setEventIx_params (s : State) (x : Nat) : (s.setEventIx x).params = s.params := rfl
@[simp] theorem State.setEventIx_script (s : State) (x : Nat) : (s.setEventIx x).script = s.script := rfl
@[simp] theorem State.setEventIx_eventIx (s : State) (x : Nat) : (s.setEventIx x).eventIx = x := rfl
@[simp] theorem State.setEventIx_freeIx (s : State) (x : Nat) : (s.setEventIx x).freeIx = s.freeIx := rfl

/-! ## setFreeIx -/

@[simp] theorem State.setFreeIx_vs (s : State) (x : Nat) : (s.setFreeIx x).vs = s.vs := rfl
@[simp] theorem State.setFreeIx_hr (s : State) (x : Nat) : (s.setFreeIx x).hr = s.hr := rfl
@[simp] theorem State.setFreeIx_cmdErr (s : State) (x : Nat) : (s.setFreeIx x).cmdErr = s.cmdErr := rfl
@[simp] theorem State.setFreeIx_pins (s : State) (x : Nat) : (s.setFreeIx x).pins = s.pins := rfl
@[simp] theorem State.setFreeIx_conv (s : State) (x : Nat) : (s.setFreeIx x).conv = s.conv := rfl
@[simp] theorem State.setFreeIx_owned (s : State) (x : Nat) : (s.setFreeIx x).owned = s.owned := rfl
@[simp] theorem State.setFreeIx_sources (s : State) (x : Nat) : (s.setFreeIx x).sources = s.sources := rfl
@[simp] theorem State.setFreeIx_sink (s : State) (x : Nat) : (s.setFreeIx x).sink = s.sink := rfl
@[simp] theorem State.setFreeIx_params (s : State) (x : Nat) : (s.setFreeIx x).params = s.params := rfl
@[simp] theorem State.setFreeIx_script (s : State) (x : Nat) : (s.setFreeIx x).script = s.script := rfl
@[simp] theorem State.setFreeIx_eventIx (s : State) (x : Nat) : (s.setFreeIx x).eventIx = s.eventIx := rfl
@[simp] theorem State.setFreeIx_freeIx (s : State) (x : Nat) : (s.setFreeIx x).freeIx = x := rfl

end Sys2Proof.Machine
end

