-- ==== Sys2Proof/Laws/Ops.lean ====
section
/-!
SUPPORT. What each shared operation can do, said once.
-/

namespace Sys2Proof.Machine

/-- A command either starts, with the word taken off the port, or waits. -/
theorem acceptCommand_cases (ready : Bool) (s : State) (start : State → State) :
    (s.pins.rst = false ∧ ready = true ∧ acceptCommand ready s start = .next (start (endPresentation s))) ∨
    ((s.pins.rst = true ∨ ready = false) ∧ acceptCommand ready s start = .next s) := by
  unfold acceptCommand
  cases h : s.pins.rst <;> cases ready <;> simp

/-- A transaction on the CC port that answers a next state: VS waited, or the converter answered. -/
theorem ccTransact_next {op : CcOp} {s t : State} {f : Half → VsRegs} (h : ccTransact op s f = .next t) :
    ccPort s = some op.code ∧
      ((ccAcknowledged op s = false ∧ t = s) ∨
       (ccAcknowledged op s = true ∧ ccCovered op s.conv = true ∧
          t = (ccEnvironment op s).setVs (f (ccRdata op s)))) := by
  unfold ccTransact at h
  by_cases hp : ccPort s = some op.code
  · refine ⟨hp, ?_⟩
    cases ha : ccAcknowledged op s <;> cases hc : ccCovered op s.conv <;> simp [hp, ha, hc] at h <;> simp [h]
  · simp [hp] at h

/-- When a transaction on the CC port is refused: VS does not issue it, or no contract covers it. -/
theorem ccTransact_refused {op : CcOp} {s : State} {f : Half → VsRegs} {r : Refusal}
    (h : ccTransact op s f = .refused r) :
    (r = .notIssued ∧ ccPort s ≠ some op.code) ∨
    (r = .converterUnspecified ∧ ccPort s = some op.code ∧ ccAcknowledged op s = true ∧
      ccCovered op s.conv = false) := by
  unfold ccTransact at h
  by_cases hp : ccPort s = some op.code
  · cases ha : ccAcknowledged op s <;> cases hc : ccCovered op s.conv <;> simp [hp, ha, hc] at h
    simp [h, hp]
  · simp [hp] at h
    simp [hp, h]

/-- A read that answers a next state: HR waited, or the source answered. -/
theorem bsTransact_next {src : BitVec 1} {pos : Half} {s t : State} {f : Byte → HrRegs}
    (h : bsTransact src pos s f = .next t) :
    bsPort s = some (bsWord src pos) ∧
      ((s.pins.bsAck = false ∧ t = s) ∨
       (s.pins.bsAck = true ∧ t = s.setHr (f (sourceByte s src pos)))) := by
  unfold bsTransact at h
  by_cases hp : bsPort s = some (bsWord src pos)
  · refine ⟨hp, ?_⟩
    cases ha : s.pins.bsAck <;> simp [hp, ha] at h <;> simp [h]
  · simp [hp] at h

theorem bsTransact_refused {src : BitVec 1} {pos : Half} {s : State} {f : Byte → HrRegs} {r : Refusal}
    (h : bsTransact src pos s f = .refused r) : r = .notIssued ∧ bsPort s ≠ some (bsWord src pos) := by
  unfold bsTransact at h
  by_cases hp : bsPort s = some (bsWord src pos)
  · cases ha : s.pins.bsAck <;> simp [hp, ha] at h
  · simp [hp] at h
    simp [hp, h]

/-- A put that answers a next state: HR waited, or the sink took the byte. -/
theorem skTransact_next {eol : Bool} {data : Byte} {s t : State} {h' : HrRegs}
    (h : skTransact eol data s h' = .next t) :
    skPort s = some (skWord eol data) ∧
      ((s.pins.skReady = false ∧ t = s) ∨
       (s.pins.skReady = true ∧ t = (s.setSink (s.sink ++ [⟨eol, data⟩])).setHr h')) := by
  unfold skTransact at h
  by_cases hp : skPort s = some (skWord eol data)
  · refine ⟨hp, ?_⟩
    cases ha : s.pins.skReady <;> simp [hp, ha] at h <;> simp [h]
  · simp [hp] at h

theorem skTransact_refused {eol : Bool} {data : Byte} {s : State} {h' : HrRegs} {r : Refusal}
    (h : skTransact eol data s h' = .refused r) : r = .notIssued ∧ skPort s ≠ some (skWord eol data) := by
  unfold skTransact at h
  by_cases hp : skPort s = some (skWord eol data)
  · cases ha : s.pins.skReady <;> simp [hp, ha] at h
  · simp [hp] at h
    simp [hp, h]

/-- Another owner's move answers a next state only where the converter is not VS's alone, and then changes the converter only. -/
theorem foreignMove_next {c : Converter} {s t : State} (h : foreignMove c s = .next t) :
    s.vs.state = .idle ∧ s.owned = false ∧ t = s.setConv c := by
  cases hv : s.vs.state <;> cases ho : s.owned <;> simp_all [foreignMove, converterReserved, vsBusy]

/-- Where another owner's move is refused. -/
theorem foreignMove_refused {c : Converter} {s : State} {r : Refusal} (h : foreignMove c s = .refused r) :
    r = .converterOwned ∧ (s.vs.state ≠ .idle ∨ s.owned = true) := by
  cases hv : s.vs.state <;> cases ho : s.owned <;> simp_all [foreignMove, converterReserved, vsBusy]

/-- Ending the presentation of a word changes nothing but `cmd_valid`. -/
theorem endPresentation_eq (s : State) : endPresentation s = s.setPins { s.pins with cmdValid := false } := rfl

/-- What each fault raises. -/
theorem raiseFault_eCmd (s : State) : raiseFault .eCmd s = s.setCmdErr true := rfl
theorem raiseFault_eNoRead (s : State) : raiseFault .eNoRead s = s.setVs { s.vs with noread := true } := rfl
theorem raiseFault_eRange (s : State) : raiseFault .eRange s = s.setVs { s.vs with range := true } := rfl

/-- `VS_DIV` writes the result and the four items of VS together and goes idle; nothing else changes. -/
theorem divStep_eq (s : State) :
    divStep s = s.setVs { s.vs with
      result := resultOf s.params.narrowing s.vs.acc, done := true
      noread := noReadFlag s.vs.acc, range := rangeFlag s.vs.acc, state := .idle } := by
  unfold divStep
  by_cases h : s.vs.acc = 0#32
  · simp [h, noReadFlag, rangeFlag, raiseFault, finishMeasure, State.setVs]
  · cases rangeFlag s.vs.acc
    · simp [h, noReadFlag, finishMeasure, State.setVs]
    · simp [h, noReadFlag, raiseFault, finishMeasure, State.setVs]

/-- The two ports of HR are never driven at once. -/
theorem skPort_none_of_bsPort {s : State} {w : BsWord} (h : bsPort s = some w) : skPort s = none := by
  unfold bsPort at h
  unfold skPort
  cases hr : s.pins.rst
  · simp only [hr, Bool.false_eq_true, if_false] at h ⊢
    split at h
    · rename_i hs
      simp [hrPut, hs.1]
    · cases h
  · simp

/-- Nothing is driven in reset. -/
theorem ports_idle_in_reset {s : State} (h : s.pins.rst = true) :
    ccPort s = none ∧ bsPort s = none ∧ skPort s = none ∧ cmdReady s = false := by
  simp [ccPort, bsPort, skPort, cmdReady, h]


end Sys2Proof.Machine
end

