-- ==== Sys2Proof/Laws/PerInstr.lean ====
section
/-!
SUPPORT. Statements made once per constructor of `Instr`.
-/

namespace Sys2Proof.Laws

/-- The number of bits of a port word (30_encoding R81, R88, R89). -/
def portWidth : PortWord → Nat
  | .cw _ => 40
  | .cc _ => 3
  | .bs _ => 17
  | .sk _ => 9

/-- The bits of a port word as one number. -/
def portNumber : PortWord → Nat
  | .cw w => w.toNat
  | .cc w => w.toNat
  | .bs w => w.toNat
  | .sk w => w.toNat

end Sys2Proof.Laws

namespace Sys2Proof.Laws.TableFindsEncoding

/-- The opcode table's number for an encoded operation, with the width of its port, leads back to the very word encoded. -/
def Statement (i : Instr) : Prop := tableWord (portWidth (encode i)) (portNumber (encode i)) = some (encode i)

theorem ofCommand (w : CommandWord) : tableWord 40 w.toNat = some (.cw w) := by
  have h := w.isLt
  simp [tableWord, h]

theorem ofCc (w : CcWord) : tableWord 3 w.toNat = some (.cc w) := by
  have h := w.isLt
  simp [tableWord, h]

theorem ofBs (w : BsWord) : tableWord 17 w.toNat = some (.bs w) := by
  have h := w.isLt
  simp [tableWord, h]

theorem ofSk (w : SkWord) : tableWord 9 w.toNat = some (.sk w) := by
  have h := w.isLt
  simp [tableWord, h]

theorem measure : Statement .measure := ofCommand _
theorem render (src : BitVec 1) (startOffset count : Half) : Statement (.render src startOffset count) := ofCommand _
theorem enAnalog : Statement .enAnalog := ofCc _
theorem cfgRef : Statement .cfgRef := ofCc _
theorem trig : Statement .trig := ofCc _
theorem poll : Statement .poll := ofCc _
theorem rdRaw : Statement .rdRaw := ofCc _
theorem disAnalog : Statement .disAnalog := ofCc _
theorem bsRead (src : BitVec 1) (pos : Half) : Statement (.bsRead src pos) := ofBs _
theorem skPut (eol : Bool) (data : Byte) : Statement (.skPut eol data) := ofSk _

end Sys2Proof.Laws.TableFindsEncoding
end

