-- ==== Sys2Proof/Laws/Step.lean ====
section
/-!
SUPPORT. What one step can do, said once for each kind of move: a turn of VS, a turn of HR, a turn of the dispatcher, and the moves of the
environment.
-/

namespace Sys2Proof.Machine

/-! ## Taking the next move off changes only the model's own fields -/

@[simp] theorem takeEvent_vs (s : State) : (takeEvent s).vs = s.vs := by unfold takeEvent; split <;> rfl
@[simp] theorem takeEvent_hr (s : State) : (takeEvent s).hr = s.hr := by unfold takeEvent; split <;> rfl
@[simp] theorem takeEvent_cmdErr (s : State) : (takeEvent s).cmdErr = s.cmdErr := by unfold takeEvent; split <;> rfl
@[simp] theorem takeEvent_pins (s : State) : (takeEvent s).pins = s.pins := by unfold takeEvent; split <;> rfl
@[simp] theorem takeEvent_conv (s : State) : (takeEvent s).conv = s.conv := by unfold takeEvent; split <;> rfl
@[simp] theorem takeEvent_owned (s : State) : (takeEvent s).owned = s.owned := by unfold takeEvent; split <;> rfl
@[simp] theorem takeEvent_sources (s : State) : (takeEvent s).sources = s.sources := by unfold takeEvent; split <;> rfl
@[simp] theorem takeEvent_sink (s : State) : (takeEvent s).sink = s.sink := by unfold takeEvent; split <;> rfl
@[simp] theorem takeEvent_params (s : State) : (takeEvent s).params = s.params := by unfold takeEvent; split <;> rfl
@[simp] theorem takeEvent_freeIx (s : State) : (takeEvent s).freeIx = s.freeIx := by unfold takeEvent; split <;> rfl
@[simp] theorem ccPort_takeEvent (s : State) : ccPort (takeEvent s) = ccPort s := by simp [ccPort]
@[simp] theorem bsPort_takeEvent (s : State) : bsPort (takeEvent s) = bsPort s := by simp [bsPort]
@[simp] theorem skPort_takeEvent (s : State) : skPort (takeEvent s) = skPort s := by simp [skPort]

@[simp] theorem nextEvent_setScript_cons (s : State) (e : Event) (rest : List Event) :
    nextEvent (s.setScript (e :: rest)) = e := rfl
@[simp] theorem takeEvent_setScript_cons (s : State) (e : Event) (rest : List Event) :
    takeEvent (s.setScript (e :: rest)) = s.setScript rest := rfl

/-! ## What the ports carry -/

/-- The CC port carries nothing, or the operation of the sequencer state. -/
theorem ccPort_cases (s : State) :
    ccPort s = none ∨
      ∃ op, ccPort s = some op.code ∧ vsRequest s.vs.state = some op ∧ s.pins.rst = false := by
  unfold ccPort
  cases s.pins.rst
  · cases h : vsRequest s.vs.state <;> simp
  · simp

/-- HR has no step, takes the blank arm, reads, or puts. -/
theorem hrPut_cases (h : HrRegs) :
    h.state = .idle ∨ (h.state = .slot ∧ h.count = 0#16) ∨ (h.state = .slot ∧ h.count ≠ 0#16) ∨
      ∃ x, hrPut h = some x ∧ h.state ≠ .slot ∧ h.state ≠ .idle := by
  unfold hrPut
  cases h.state <;> simp
  exact Classical.em _

/-! ## The step of each kind of move -/

/-- A turn of VS that carries an operation executes it. -/
theorem step_vs_op {s : State} {op : CcOp} (he : nextEvent s = .vs) (hp : ccPort s = some op.code) :
    ∃ i, ccOpOf i = some op ∧ step s = exec i (takeEvent s) := by
  have hw : fetchWord (nextEvent s) (takeEvent s) = some (.cc op.code) := by simp [he, fetchWord, hp]
  unfold step
  rw [hw]
  cases op <;> exact ⟨_, rfl, rfl⟩

/-- A turn of VS that carries none is silent. -/
theorem step_vs_silent {s : State} (he : nextEvent s = .vs) (hp : ccPort s = none) :
    step s = .next (vsSilent (takeEvent s)) := by
  simp [step, he, fetchWord, hp, otherMove]

/-- A turn of HR in the consuming arm executes the read. -/
theorem step_hr_read {s : State} (he : nextEvent s = .hr) (hr : s.pins.rst = false) (h1 : s.hr.state = .slot)
    (h2 : s.hr.count ≠ 0#16) : step s = exec (.bsRead s.hr.src s.hr.addr) (takeEvent s) := by
  have hb : bsPort s = some (bsWord s.hr.src s.hr.addr) := by simp [bsPort, hr, h1, h2]
  simp only [step, he, fetchWord, hrWord, bsPort_takeEvent, hb, decode, decodeBs_bsWord]

/-- A turn of HR in a state that puts a character executes the put. -/
theorem step_hr_put {s : State} {x : SinkItem} (he : nextEvent s = .hr) (hr : s.pins.rst = false)
    (hx : hrPut s.hr = some x) : step s = exec (.skPut x.eol x.data) (takeEvent s) := by
  have hb : bsPort s = none := by
    have : s.hr.state ≠ .slot := by
      intro h
      simp [hrPut, h] at hx
    simp [bsPort, this]
  have hk : skPort s = some (skWord x.eol x.data) := by simp [skPort, hr, hx]
  simp only [step, he, fetchWord, hrWord, bsPort_takeEvent, skPort_takeEvent, hb, hk, decode, Option.map,
    decodeSk_skWord]

/-- Any other turn of HR is silent. -/
theorem step_hr_silent {s : State} (he : nextEvent s = .hr)
    (h : s.pins.rst = true ∨ s.hr.state = .idle ∨ (s.hr.state = .slot ∧ s.hr.count = 0#16)) :
    step s = .next (hrSilent (takeEvent s)) := by
  have hb : bsPort s = none := by
    unfold bsPort
    rcases h with h | h | h <;> simp [h]
  have hk : skPort s = none := by
    unfold skPort
    rcases h with h | h | h <;> simp [h, hrPut]
  simp only [step, he, fetchWord, hrWord, bsPort_takeEvent, skPort_takeEvent, hb, hk, Option.map, otherMove]

/-- A turn of the dispatcher with a word presented. -/
theorem step_dispatch {s : State} (he : nextEvent s = .dispatch) (h : s.pins.cmdValid = true) :
    (decodeCommand s.pins.cmdWord = .instr .measure ∧ step s = execMeasure (takeEvent s)) ∨
    (∃ src a c, decodeCommand s.pins.cmdWord = .instr (.render src a c) ∧
      step s = execRender src a c (takeEvent s)) ∨
    (decodeCommand s.pins.cmdWord = .reject .illegalCommand ∧ step s = .next (acceptIllegal (takeEvent s))) := by
  rcases decodeCommand_cases s.pins.cmdWord with hd | ⟨src, a, c, hd⟩ | hd
  · exact .inl ⟨hd, by simp [step, he, fetchWord, h, decode, hd, exec]⟩
  · exact .inr (.inl ⟨src, a, c, hd, by simp [step, he, fetchWord, h, decode, hd, exec]⟩)
  · exact .inr (.inr ⟨hd, by simp [step, he, fetchWord, h, decode, hd, rejectedWord]⟩)

/-- A turn of the dispatcher with none. -/
theorem step_dispatch_none {s : State} (he : nextEvent s = .dispatch) (h : s.pins.cmdValid = false) :
    step s = .next (takeEvent s) := by
  simp [step, he, fetchWord, h, otherMove]

/-- A move of the environment. -/
theorem step_environment {s : State} (h1 : nextEvent s ≠ .vs) (h2 : nextEvent s ≠ .hr)
    (h3 : nextEvent s ≠ .dispatch) : step s = otherMove (nextEvent s) (takeEvent s) := by
  unfold step
  cases he : nextEvent s <;> simp_all [fetchWord]

/-! ## Inversion: what a step that answers a next state can be -/

/-- VS after an acknowledged operation. -/
def vsAfter (op : CcOp) (s : State) : VsRegs :=
  match op with
  | .enAnalog => { s.vs with state := .config }
  | .cfgRef => { s.vs with settle := s.params.settleCycles, state := .settle }
  | .trig => { s.vs with state := .poll }
  | .poll => { s.vs with state := if s.conv.convBusy then .poll else .read }
  | .rdRaw =>
    { s.vs with
      acc := s.vs.acc + s.conv.raw.setWidth 32
      samp := s.vs.samp + 1#7
      state := if (s.vs.samp + 1#7).toNat = Config.nSamp then .disable else .trig }
  | .disAnalog => { s.vs with state := if s.vs.state = .rstdis then .idle else .div }

/-- A turn of VS: it waited or had no step; or it counted down; or it divided; or an operation was acknowledged. -/
theorem step_vs_cases {s t : State} (he : nextEvent s = .vs) (h : step s = .next t) :
    t = takeEvent s ∨
    (s.pins.rst = false ∧ s.vs.state = .settle ∧ t = settleStep (takeEvent s)) ∨
    (s.pins.rst = false ∧ s.vs.state = .div ∧ t = divStep (takeEvent s)) ∨
    (s.pins.rst = false ∧ s.pins.ccAck = true ∧ ∃ op, vsRequest s.vs.state = some op ∧
      ccAcknowledged op s = true ∧ ccCovered op s.conv = true ∧
      t = (ccEnvironment op (takeEvent s)).setVs (vsAfter op s)) := by
  rcases ccPort_cases s with hp | ⟨op, hp, hv, hr⟩
  · rw [step_vs_silent he hp] at h
    cases h
    unfold vsSilent
    simp only [takeEvent_pins, takeEvent_vs]
    cases hr : s.pins.rst
    · simp only [Bool.false_eq_true, if_false, true_and]
      cases hs : s.vs.state <;> simp [ccPort, hr, hs, vsRequest] at hp ⊢
    · simp
  · obtain ⟨i, hi, h'⟩ := step_vs_op he hp
    rw [h'] at h
    cases i <;> simp only [ccOpOf, Option.some.injEq, reduceCtorEq] at hi <;> subst hi <;>
      simp only [exec, execEnAnalog, execCfgRef, execTrig, execPoll, execRdRaw, execDisAnalog] at h <;>
      obtain ⟨_, ⟨_, rfl⟩ | ⟨hk, hc, rfl⟩⟩ := ccTransact_next h <;> (try (left; rfl)) <;>
      (right; right; right
       refine ⟨hr, ?_, _, hv, by simpa [ccAcknowledged] using hk, by simpa using hc, ?_⟩
       · simp only [ccAcknowledged, takeEvent_pins, Bool.and_eq_true] at hk
         exact hk.1
       · simp only [vsAfter, ccRdata, getLsbD_zero_append_ofBool, takeEvent_vs, takeEvent_conv, takeEvent_params])

/-- A turn of HR: it waited or had no step; or took the blank arm; or consumed a byte; or handed one over. -/
theorem step_hr_cases {s t : State} (he : nextEvent s = .hr) (h : step s = .next t) :
    t = takeEvent s ∨
    (s.pins.rst = false ∧ s.hr.state = .slot ∧ s.hr.count = 0#16 ∧
      t = (takeEvent s).setHr (hrAfterBlank s.hr)) ∨
    (s.pins.rst = false ∧ s.pins.bsAck = true ∧ s.hr.state = .slot ∧ s.hr.count ≠ 0#16 ∧
      t = (takeEvent s).setHr (hrAfterRead s.hr (sourceByte s s.hr.src s.hr.addr))) ∨
    (s.pins.rst = false ∧ s.pins.skReady = true ∧ ∃ x, hrPut s.hr = some x ∧
      t = ((takeEvent s).setSink (s.sink ++ [x])).setHr (hrAfterPut s.hr)) := by
  cases hr : s.pins.rst
  case true =>
    rw [step_hr_silent he (.inl hr)] at h
    cases h
    simp [hrSilent, hr]
  case false =>
    rcases hrPut_cases s.hr with h1 | h1 | h1 | ⟨x, h1, h2, h3⟩
    · rw [step_hr_silent he (.inr (.inl h1))] at h
      cases h
      simp [hrSilent, h1]
    · rw [step_hr_silent he (.inr (.inr h1))] at h
      cases h
      simp [hrSilent, h1, hr]
    · rw [step_hr_read he hr h1.1 h1.2] at h
      simp only [exec, execBsRead] at h
      obtain ⟨_, ⟨_, rfl⟩ | ⟨hb, rfl⟩⟩ := bsTransact_next h
      · simp
      · right; right; left
        simp only [takeEvent_pins] at hb
        simp [h1, hb, sourceByte]
    · rw [step_hr_put he hr h1] at h
      simp only [exec, execSkPut] at h
      obtain ⟨_, ⟨_, rfl⟩ | ⟨hb, rfl⟩⟩ := skTransact_next h
      · simp
      · right; right; right
        simp only [takeEvent_pins] at hb
        exact ⟨rfl, hb, x, h1, by simp⟩

/-- A turn of the dispatcher: nothing accepted; or a measurement started; or a render started; or an illegal word flagged. -/
theorem step_dispatch_cases {s t : State} (he : nextEvent s = .dispatch) (h : step s = .next t) :
    t = takeEvent s ∨
    (s.pins.rst = false ∧ s.pins.cmdValid = true ∧ decodeCommand s.pins.cmdWord = .instr .measure ∧
      s.vs.state = .idle ∧ t = startMeasure (endPresentation (takeEvent s))) ∨
    (s.pins.rst = false ∧ s.pins.cmdValid = true ∧ s.hr.state = .idle ∧
      ∃ src a c, decodeCommand s.pins.cmdWord = .instr (.render src a c) ∧
        t = startRender src a c (endPresentation (takeEvent s))) ∨
    (s.pins.rst = false ∧ s.pins.cmdValid = true ∧ decodeCommand s.pins.cmdWord = .reject .illegalCommand ∧
      t = (endPresentation (takeEvent s)).setCmdErr true) := by
  cases hv : s.pins.cmdValid
  · rw [step_dispatch_none he hv] at h
    cases h
    simp
  · rcases step_dispatch he hv with ⟨hd, h'⟩ | ⟨src, a, c, hd, h'⟩ | ⟨hd, h'⟩ <;> rw [h'] at h
    · rcases acceptCommand_cases ((takeEvent s).vs.state == .idle) (takeEvent s) startMeasure with
        ⟨h1, h2, h3⟩ | ⟨_, h3⟩ <;> rw [execMeasure, h3] at h <;> cases h
      · right; left
        simp only [takeEvent_pins, takeEvent_vs, beq_iff_eq] at h1 h2
        simp [h1, h2, hd]
      · simp
    · rcases acceptCommand_cases ((takeEvent s).hr.state == .idle) (takeEvent s) (startRender src a c) with
        ⟨h1, h2, h3⟩ | ⟨_, h3⟩ <;> rw [execRender, h3] at h <;> cases h
      · right; right; left
        simp only [takeEvent_pins, takeEvent_hr, beq_iff_eq] at h1 h2
        exact ⟨h1, rfl, h2, src, a, c, hd, rfl⟩
      · simp
    · cases h
      unfold acceptIllegal
      cases hr : s.pins.rst <;> simp [hr, hd, raiseFault]

end Sys2Proof.Machine
end

