-- ==== Sys2Proof/Tests/Slice0.lean ====
section
/-!
SUPPORT. Tests: ill-formed operations, words written out from the encodings of spec/, single steps with results from
95_test_vectors or the examples in the rules, and a witness for the hypotheses of each statement.
-/

namespace Sys2Proof.Tests

open Sys2Proof Sys2Proof.Machine

/-! ## Well-formedness refuses -/

/-- 20_memory R58: the mark stands only on the line feed. -/
theorem test_wellFormed_refuses_mark_off_line_feed : (Instr.skPut true 0x41#8).wellFormed = false := by decide
/-- 20_memory R58: the line feed carries the mark. -/
theorem test_wellFormed_refuses_unmarked_line_feed : (Instr.skPut false 0x0A#8).wellFormed = false := by decide
/-- 30_encoding R95: just below and just above the printable range. -/
theorem test_wellFormed_refuses_bytes_off_the_set :
    (Instr.skPut false 0x1F#8).wellFormed = false ∧ (Instr.skPut false 0x7F#8).wellFormed = false := by decide
/-- 30_encoding R95: the ends of the range, carriage return and marked line feed. -/
theorem test_wellFormed_accepts_the_set :
    (Instr.skPut false 0x20#8).wellFormed = true ∧ (Instr.skPut false 0x7E#8).wellFormed = true ∧
    (Instr.skPut false 0x0D#8).wellFormed = true ∧ (Instr.skPut true 0x0A#8).wellFormed = true := by decide

/-! ## Decoding, every constructor from a word written out bit by bit -/

/-- V1. -/
theorem test_decode_measure : decode (.cw 0b0000000100000000000000000000000000000000#40) = .instr .measure := by decide
/-- V2 to V5. -/
theorem test_decode_render :
    decode (.cw 0b0001000000000000000000000000000000010001#40) = .instr (.render 0#1 0#16 17#16) ∧
    decode (.cw 0x1101000020#40) = .instr (.render 1#1 0x0100#16 32#16) ∧
    decode (.cw 0x11FFFFFFFF#40) = .instr (.render 1#1 0xFFFF#16 65535#16) ∧
    decode (.cw 0x1012340000#40) = .instr (.render 0#1 0x1234#16 0#16) := by decide
/-- V6 to V10. -/
theorem test_decode_illegal_words :
    decode (.cw 0x0000000000#40) = .reject .illegalCommand ∧ decode (.cw 0x0100000001#40) = .reject .illegalCommand ∧
    decode (.cw 0x0100010000#40) = .reject .illegalCommand ∧ decode (.cw 0x1200000010#40) = .reject .illegalCommand ∧
    decode (.cw 0x0200000000#40) = .reject .illegalCommand ∧ decode (.cw 0x0F00000000#40) = .reject .illegalCommand ∧
    decode (.cw 0x2000000000#40) = .reject .illegalCommand ∧ decode (.cw 0x9000000000#40) = .reject .illegalCommand ∧
    decode (.cw 0xFFFFFFFFFF#40) = .reject .illegalCommand := by decide
/-- 30_encoding R88. -/
theorem test_decode_enAnalog : decode (.cc 0b001#3) = .instr .enAnalog := by decide
theorem test_decode_cfgRef : decode (.cc 0b010#3) = .instr .cfgRef := by decide
theorem test_decode_trig : decode (.cc 0b011#3) = .instr .trig := by decide
theorem test_decode_poll : decode (.cc 0b100#3) = .instr .poll := by decide
theorem test_decode_rdRaw : decode (.cc 0b101#3) = .instr .rdRaw := by decide
theorem test_decode_disAnalog : decode (.cc 0b110#3) = .instr .disAnalog := by decide
theorem test_decode_codes_never_issued :
    decode (.cc 0b000#3) = .reject .ccCodeNeverIssued ∧ decode (.cc 0b111#3) = .reject .ccCodeNeverIssued := by decide
/-- 30_encoding R89: the first read of V26, source 1 and position 0xFFF8. -/
theorem test_decode_bsRead : decode (.bs 0b11111111111111000#17) = .instr (.bsRead 1#1 0xFFF8#16) := by decide
/-- V34: the words of the row of V21. -/
theorem test_decode_skPut :
    decode (.sk 0b001000001#9) = .instr (.skPut false 0x41#8) ∧
    decode (.sk 0b100001010#9) = .instr (.skPut true 0x0A#8) := by decide
/-- 30_encoding R100. -/
theorem test_spellings : encode (renderM 0#16 17#16) = .cw 0x1000000011#40 ∧
    encode (renderS 0xFFF8#16 24#16) = .cw 0x11FFF80018#40 := by decide

/-! ## The opcode table's numbering -/

theorem test_decodeTableWord_rows :
    decodeTableWord 40 0x0100000000 = some .measure ∧ decodeTableWord 40 0x1012340000 = some (.render 0#1 0x1234#16 0#16) ∧
    decodeTableWord 8 1 = some .enAnalog ∧ decodeTableWord 8 2 = some .cfgRef ∧ decodeTableWord 8 3 = some .trig ∧
    decodeTableWord 8 4 = some .poll ∧ decodeTableWord 8 5 = some .rdRaw ∧ decodeTableWord 8 6 = some .disAnalog ∧
    decodeTableWord 24 0x1FFF8 = some (.bsRead 1#1 0xFFF8#16) ∧ decodeTableWord 16 0x10A = some (.skPut true 0x0A#8) ∧
    decodeTableWord 8 7 = none ∧ decodeTableWord 40 0 = none := by decide

/-! ## States to step -/

/-- Both units idle, the environment answering at once, 3 settle cycles at 1 Hz, the moves `script` to come. -/
def bench (script : List Event) : State :=
  { State.reset with
    vs := { VsRegs.reset with state := .idle }
    pins := { Pins.reset with ccAck := true, bsAck := true, skReady := true }
    params := ⟨.wrap, 1, 3⟩
    script := script }

/-- The same with a command word presented and a turn of the dispatcher next. -/
def presented (w : CommandWord) : State :=
  let s := bench [.dispatch]
  s.setPins { s.pins with cmdValid := true, cmdWord := w }

/-- A converter handed to VS, idle, with a completed conversion; the settle wait of `bench` is over. -/
def held : Converter := ⟨true, true, false, 0x03FF#16, true, 4⟩

/-- VS in a sequencer state with the converter held; a turn of VS is next. -/
def sampler (st : VsState) (acc : BitVec 32) (samp : BitVec 7) : State :=
  ((bench [.vs]).setVs { VsRegs.reset with state := st, acc := acc, samp := samp }).setConv held |>.setOwned true

/-- HR with the given registers, a turn of HR next, position 0xFFFF of source 1 holding 0x41. -/
def renderer (h : HrRegs) : State := ((bench [.hr]).setHr h).setSources [(131071, 0x41#8)]

/-- HR at the start of a slot field: row of `n` bytes so far, `count` to come. -/
def slotRegs (st : HrState) (n : BitVec 5) (count : Half) : HrRegs :=
  { HrRegs.reset with
    state := st, addr := 0xFFFF#16, count := count, src := 1#1, col := n, cur := 0x4F#8
    tail := Vector.replicate 16 0x2E#8, tlen := n }

/-- The next state, if there is one. -/
def next? : Result → Option State
  | .next t => some t
  | .fault _ => none
  | .refused _ => none

/-! ## Single steps -/

/-- The example of R111: flags, sum and counter cleared. -/
theorem test_measure_clears :
    (next? (step ((presented 0x0100000000#40).setVs
      { VsRegs.reset with state := .idle, acc := 51200#32, samp := 100#7, done := true, result := 0x0898#16 }))).map
      (fun t => (t.vs.state, t.vs.acc, t.vs.samp, t.vs.done)) = some (.enable, 0#32, 0#7, false) := by decide
/-- P6: a second `MEASURE` waits. -/
theorem test_measure_waits :
    (next? (step ((presented 0x0100000000#40).setVs { VsRegs.reset with state := .poll }))).map
      (fun t => (t.vs.state, t.pins.cmdValid)) = some (.poll, true) := by decide
/-- V28: nothing to render. -/
theorem test_render_of_nothing :
    (next? (step (presented 0x1012340000#40))).map (fun t => (t.hr.state, t.hr.done, t.hr.addr, t.sink)) =
      some (.idle, true, 0x1234#16, []) := by decide
/-- P3: operands loaded. -/
theorem test_render_loads :
    (next? (step (presented 0x11FFF80018#40))).map (fun t => (t.hr.state, t.hr.done, t.hr.src, t.hr.addr, t.hr.count)) =
      some (.addr, false, 1#1, 0xFFF8#16, 24#16) := by decide
/-- P4: illegal words set `CMD_ERR` and nothing else. -/
theorem test_illegal_word_flags :
    (next? (step (presented 0x0100000001#40))).map (fun t => (t.cmdErr, t.vs.state, t.hr.state)) =
      some (true, .idle, .idle) := by decide
/-- R112. -/
theorem test_enAnalog : (next? (step ((sampler .enable 0#32 0#7).setConv converterAtPowerOn))).map
    (fun t => (t.vs.state, t.conv.anEn, t.conv.refCfg)) = some (.config, true, false) := by decide
/-- R113: `SETTLE_CYCLES` = 3 loaded. -/
theorem test_cfgRef : (next? (step (sampler .config 0#32 0#7))).map
    (fun t => (t.vs.state, t.vs.settle, t.conv.refCfg, t.conv.refAge)) = some (.settle, 3, true, 0) := by decide
/-- R114: the example's last step. -/
theorem test_settle_ends : (next? (step (sampler .settle 0#32 0#7))).map (fun t => t.vs.state) = some .trig := by decide
/-- R115, 42 R172. -/
theorem test_trig : (next? (step (sampler .trig 0#32 0#7))).map (fun t => (t.vs.state, t.conv.convBusy)) =
    some (.poll, true) := by decide
/-- `VS_POLL` answer 0xFFFE: bits 15:1 ignored. -/
theorem test_poll_complete :
    (next? (step ((sampler .poll 0#32 0#7).setPins { (bench []).pins with ccNoise := 0xFFFF#16 }))).map
      (fun t => t.vs.state) = some .read := by decide
/-- `VS_POLL` answer with bit 0 = 1. -/
theorem test_poll_in_progress :
    (next? (step ((sampler .poll 0#32 0#7).setConv { held with convBusy := true }))).map (fun t => t.vs.state) =
      some .poll := by decide
/-- The example of R117: 1024 + 0x0200, sample 3. -/
theorem test_rdRaw_adds :
    (next? (step ((sampler .read 1024#32 2#7).setConv { held with raw := 0x0200#16 }))).map
      (fun t => (t.vs.acc, t.vs.samp, t.vs.state)) = some (1536#32, 3#7, .trig) := by decide
/-- `VS_READ` with `SAMP` = 99 and answer 0x03FF. -/
theorem test_rdRaw_leaves_the_loop :
    (next? (step (sampler .read 101277#32 99#7))).map (fun t => (t.vs.acc, t.vs.samp, t.vs.state)) =
      some (102300#32, 100#7, .disable) := by decide
/-- R119. -/
theorem test_disAnalog_after_sampling : (next? (step (sampler .disable 102300#32 100#7))).map
    (fun t => (t.vs.state, t.vs.done, t.conv.anEn, t.conv.refCfg)) = some (.div, false, false, false) := by decide
/-- V32: the release step after reset. -/
theorem test_disAnalog_after_reset :
    ((next? (step (sampler .rstdis 0#32 0#7))).map fun t => (t.vs.state, status t)) = some (.idle, 0#8) := by decide
/-- V11, through the `VS_DIV` step. -/
theorem test_div : (next? (step (sampler .div 102300#32 100#7))).map
    (fun t => (t.vs.state, t.vs.result, t.vs.done, t.vs.noread, t.vs.range)) =
      some (.idle, 0x044D#16, true, false, false) := by decide
/-- V12, V15 to V20, and V19 under `saturate`. -/
theorem test_results :
    resultOf .wrap 51200#32 = 0x0898#16 ∧ resultOf .wrap 0#32 = 0#16 ∧ resultOf .wrap 1#32 = 0xC000#16 ∧
    resultOf .wrap 1718#32 = 0x001C#16 ∧ resultOf .wrap 1719#32 = 0xFFF6#16 ∧ resultOf .wrap 880#32 = 0xF400#16 ∧
    resultOf .saturate 880#32 = 0xFFFF#16 ∧ resultOf .wrap 6553500#32 = 0x0011#16 ∧
    rangeFlag 1718#32 = true ∧ rangeFlag 1719#32 = false ∧ noReadFlag 0#32 = true := by decide
/-- V26: the read at 0xFFFF, after which `ADDR` is 0. -/
theorem test_bsRead_wraps_the_address :
    (next? (step (renderer (slotRegs .slot 7#5 17#16)))).map
      (fun t => (t.hr.state, t.hr.cur, t.hr.addr, t.hr.count, t.hr.tlen, t.hr.tail[7])) =
        some (.hex, 0x41#8, 0#16, 16#16, 8#5, 0x41#8) := by decide
/-- V22: the projection at the printable boundary. -/
theorem test_proj : proj 0x1F#8 = 0x2E#8 ∧ proj 0x20#8 = 0x20#8 ∧ proj 0x7E#8 = 0x7E#8 ∧ proj 0x7F#8 = 0x2E#8 := by
  decide
/-- 95_test_vectors 2.3. -/
theorem test_hexdigit : hexdigit 0#4 = 0x30#8 ∧ hexdigit 9#4 = 0x39#8 ∧ hexdigit 10#4 = 0x41#8 ∧
    hexdigit 15#4 = 0x46#8 := by decide
/-- V29: the second hex digit of a byte. -/
theorem test_skPut_hex_digit : (next? (step (renderer { slotRegs .hex 3#5 1#16 with idx := 1#4 }))).map
    (fun t => (t.hr.state, t.hr.idx, t.sink)) = some (.hex, 2#4, [⟨false, 0x46#8⟩]) := by decide
/-- V34: the marked line feed ends the last row. -/
theorem test_skPut_line_feed : (next? (step (renderer (slotRegs .lf 16#5 0#16)))).map
    (fun t => (t.hr.state, t.hr.done, t.sink)) = some (.idle, true, [⟨true, 0x0A#8⟩]) := by decide
/-- V21: the row as the text the statements speak of. -/
theorem test_row_text : rowItems 0#16 [0x41#8] =
    ([0x30#8, 0x30#8, 0x30#8, 0x30#8, 0x20#8, 0x34#8, 0x31#8, 0x20#8] ++ List.replicate 45 0x20#8 ++
      [0x20#8, 0x41#8, 0x0D#8]).map (SinkItem.mk false) ++ [⟨true, 0x0A#8⟩] := by decide
/-- V30: three rows. -/
theorem test_row_count : rowCount 33 = 3 ∧ rowCount 32 = 2 ∧ rowCount 0 = 0 := by decide
/-- A withdrawn acknowledge: VS waits (00_scope R11). -/
theorem test_waits : step ((sampler .trig 0#32 0#7).setPins Pins.reset) =
    .next (((sampler .trig 0#32 0#7).setPins Pins.reset).setScript []) := by rfl

/-! ## Placed words run from reset -/

theorem test_placed_commands :
    (next? (step (State.reset.withFetchWord 40 0x0100000000))).map (fun t => t.vs.state) = some .enable ∧
    (next? (step (State.reset.withFetchWord 40 0x1100050006))).map (fun t => (t.hr.src, t.hr.addr, t.hr.count)) =
      some (1#1, 5#16, 6#16) := by decide
theorem test_placed_converter_operations :
    (next? (step (State.reset.withFetchWord 8 1))).map (fun t => t.conv.anEn) = some true ∧
    (next? (step (State.reset.withFetchWord 8 2))).map (fun t => t.conv.refCfg) = some true ∧
    (next? (step (State.reset.withFetchWord 8 3))).map (fun t => t.conv.convBusy) = some true ∧
    (next? (step (State.reset.withFetchWord 8 4))).map (fun t => t.vs.state) = some .read ∧
    (next? (step (State.reset.withFetchWord 8 5))).map (fun t => t.vs.samp) = some 1#7 ∧
    (next? (step (State.reset.withFetchWord 8 6))).map (fun t => t.vs.state) = some .idle := by decide
theorem test_placed_stream_operations :
    (next? (step (State.reset.withFetchWord 24 0x1FFF8))).map (fun t => (t.hr.src, t.hr.addr)) = some (1#1, 0xFFF9#16) ∧
    (next? (step (State.reset.withFetchWord 16 0x041))).map (fun t => t.sink) = some [⟨false, 0x41#8⟩] ∧
    (next? (step (State.reset.withFetchWord 16 0x10A))).map (fun t => t.sink) = some [⟨true, 0x0A#8⟩] := by decide

/-! ## States of the invariant -/

/-- The invariant from its two parts that differ between the states below. -/
theorem inv_of {s : State} (hv : vsInv s) (hh : hrInv s.hr) (hd : s.vs.done = false) (hn : s.vs.noread = false)
    (hg : s.vs.range = false) (hm : Memory.wf s.sources = true) (hk : s.sink = []) (hr : s.pins.rst = false) : Inv s where
  vs := hv
  vsFlags := ⟨fun h => by simp [hd] at h, fun _ => ⟨hn, hg⟩⟩
  hr := hh
  memory := hm
  sink := by intro x hx; simp [hk] at hx
  inReset := by intro h; simp [hr] at h

theorem inv_bench (script : List Event) : Inv (bench script) := inv_of rfl trivial rfl rfl rfl rfl rfl rfl

theorem inv_presented (w : CommandWord) : Inv (presented w) := inv_of rfl trivial rfl rfl rfl rfl rfl rfl

theorem inv_trig : Inv (sampler .trig 0#32 0#7) :=
  inv_of (by simp [vsInv, sampling, converterHeld, sumBounded, sampler, bench, held, VsRegs.reset, Config.nSamp,
    State.setVs, State.setConv, State.setOwned]) trivial rfl rfl rfl rfl rfl rfl

theorem inv_disable : Inv (sampler .disable 102300#32 100#7) :=
  inv_of (by simp [vsInv, converterHeld, sumBounded, sampler, bench, held, VsRegs.reset, Config.nSamp,
    State.setVs, State.setConv, State.setOwned]) trivial rfl rfl rfl rfl rfl rfl

/-- VS in `VS_DIV`, the converter released. -/
def dividing : State := ((sampler .div 102300#32 100#7).setOwned false).setConv converterAtPowerOn

theorem inv_div : Inv dividing :=
  inv_of (by simp [dividing, converterAtPowerOn, vsInv, sumBounded, sampler, bench, VsRegs.reset, Config.nSamp,
    State.setVs, State.setConv, State.setOwned]) trivial rfl rfl rfl rfl rfl rfl

/-- VS idle with the result of V11. -/
def finished (e : Event) : State :=
  (bench [e]).setVs { VsRegs.reset with
    state := .idle, acc := 102300#32, samp := 100#7, result := 0x044D#16, done := true }

theorem inv_finished (e : Event) : Inv (finished e) where
  vs := rfl
  vsFlags := ⟨fun _ => ⟨rfl, rfl, by show 102300 ≤ 100 * 65535; decide,
      by show 0x044D#16 = resultOf .wrap 102300#32; decide, by show false = noReadFlag 102300#32; decide,
      by show false = rangeFlag 102300#32; decide⟩, fun h => by simp [finished, State.setVs] at h⟩
  hr := trivial
  memory := rfl
  sink := by intro x hx; simp [finished, bench, State.setVs, State.reset] at hx
  inReset := by intro h; simp [finished, bench, State.setVs, Pins.reset] at h

theorem tail_printable (st : HrState) (n : BitVec 5) (c : Half) : tailPrintable (slotRegs st n c) := by
  intro i _
  simp [slotRegs]
  decide

theorem inv_row (st : HrState) (n : BitVec 5) (c : Half) (h : hrInv (slotRegs st n c)) :
    Inv (renderer (slotRegs st n c)) := 
  inv_of rfl h rfl rfl rfl (by show Memory.wf [(131071, 0x41#8)] = true; decide) rfl rfl

theorem inv_slot : Inv (renderer (slotRegs .slot 15#5 1#16)) :=
  inv_row _ _ _ ⟨by decide, by decide, by decide, by decide, by decide, tail_printable _ _ _⟩

theorem inv_sep : Inv (renderer (slotRegs .sep 16#5 0#16)) :=
  inv_row _ _ _ ⟨by decide, by decide, by decide, by decide, tail_printable _ _ _⟩

theorem inv_tail : Inv (renderer (slotRegs .tail 16#5 0#16)) :=
  inv_row _ _ _ ⟨by decide, by decide, by decide, by decide, tail_printable _ _ _⟩

theorem inv_lf : Inv (renderer (slotRegs .lf 16#5 1#16)) :=
  inv_row _ _ _ ⟨by decide, by decide, by decide, tail_printable _ _ _⟩

/-- A block in reset. -/
def inReset (e : Event) : State :=
  ((bench [e]).setVs VsRegs.reset).setPins { Pins.reset with rst := true, cmdValid := true, cmdWord := 0x0100000000#40 }

theorem inv_inReset (e : Event) : Inv (inReset e) where
  vs := trivial
  vsFlags := ⟨fun h => by simp [inReset, VsRegs.reset, State.setVs, State.setPins] at h, fun _ => ⟨rfl, rfl⟩⟩
  hr := trivial
  memory := rfl
  sink := by intro x hx; simp [inReset, bench, State.setVs, State.setPins, State.reset] at hx
  inReset := fun _ => ⟨rfl, rfl, rfl, rfl, rfl⟩

/-! ## Witnesses: states and operands that meet the hypotheses of each statement, clause by clause -/

theorem witness_EncodeOfDecodeIsTheWord : decode (.sk 0b100001010#9) = .instr (.skPut true 0x0A#8) := by decide

theorem witness_CommandWordsFollowMatchAndMask :
    0x0100000000#40 &&& 0xFFFFFFFFFF#40 = 0x0100000000#40 ∧ 0x11FFFFFFFF#40 &&& 0xFE00000000#40 = 0x1000000000#40 ∧
    0x1200000000#40 &&& 0xFFFFFFFFFF#40 ≠ 0x0100000000#40 ∧ 0x1200000000#40 &&& 0xFE00000000#40 ≠ 0x1000000000#40 := by
  decide

theorem witness_StepRunsTheDecodedWord :
    (fetchWord (nextEvent (presented 0x0100000000#40)) (takeEvent (presented 0x0100000000#40)) =
        some (.cw 0x0100000000#40) ∧ decode (.cw 0x0100000000#40) = .instr .measure) ∧
    fetchWord (nextEvent (bench [.bsAck false])) (takeEvent (bench [.bsAck false])) = none := by decide

theorem witness_EveryStepKeepsTheInvariant :
    Inv (sampler .trig 0#32 0#7) ∧ ∃ t, step (sampler .trig 0#32 0#7) = .next t ∧ t.vs.state = .poll :=
  ⟨inv_trig, _, rfl, rfl⟩

theorem witness_OnlyForeignMovesAreRefused :
    Inv ((sampler .trig 0#32 0#7).setScript [.foreign converterAtPowerOn]) ∧
    step ((sampler .trig 0#32 0#7).setScript [.foreign converterAtPowerOn]) = .refused .converterOwned :=
  ⟨⟨inv_trig.vs, inv_trig.vsFlags, inv_trig.hr, inv_trig.memory, inv_trig.sink, inv_trig.inReset⟩, rfl⟩

theorem witness_MeasureAcceptedByIdleSampler :
    ((presented 0x0100000000#40).vs.state = .idle ∧ (presented 0x0100000000#40).pins.rst = false) ∧
    ((bench [.vs]).vs.state = .idle ∧ nextEvent (bench [.vs]) = .vs) := by decide

theorem witness_RenderAcceptedByIdleRenderer :
    ((presented 0x1012340000#40).hr.state = .idle ∧ (presented 0x1012340000#40).pins.rst = false) ∧
    ((bench [.hr]).hr.state = .idle ∧ nextEvent (bench [.hr]) = .hr) := by decide

theorem witness_CommandForBusyUnitWaits :
    (sampler .trig 0#32 0#7).vs.state ≠ .idle ∧ (renderer (slotRegs .slot 15#5 1#16)).hr.state ≠ .idle ∧
    (inReset .dispatch).pins.rst = true := by decide

theorem witness_WordLeavesPortExactlyWhenReady :
    nextEvent (presented 0x0100000000#40) = .dispatch ∧ (presented 0x0100000000#40).pins.cmdValid = true ∧
    cmdReady (presented 0x0100000000#40) = true ∧
    cmdReady ((presented 0x0100000000#40).setVs VsRegs.reset) = false := by decide

theorem witness_IllegalWordOnlySetsCmdErr :
    (nextEvent (presented 0#40) = .dispatch ∧ (presented 0#40).pins.cmdValid = true ∧
      (presented 0#40).pins.rst = false) ∧
    ((0#40).extractLsb' 32 8 ≠ 0x01#8 ∧ (0#40).extractLsb' 32 8 ≠ 0x10#8 ∧ (0#40).extractLsb' 32 8 ≠ 0x11#8) ∧
    (0x0100010000#40).extractLsb' 32 8 = 0x01#8 ∧ (0x0100010000#40).extractLsb' 16 16 ≠ 0#16 ∧
    (0x0100000001#40).extractLsb' 32 8 = 0x01#8 ∧ (0x0100000001#40).extractLsb' 0 16 ≠ 0#16 := by decide

theorem witness_CmdErrChangesOnlyByIllegalWordOrReset :
    (∃ t, step (presented 0#40) = .next t ∧ (presented 0#40).cmdErr = false ∧ t.cmdErr = true) ∧
    (∃ t, step ((bench [.reset true]).setCmdErr true) = .next t ∧ t.cmdErr = false) :=
  ⟨⟨_, rfl, rfl, rfl⟩, _, rfl, rfl⟩

theorem witness_EnAnalogPowersTheSubsystem :
    (sampler .enable 0#32 0#7).pins.rst = false ∧ (sampler .enable 0#32 0#7).vs.state = .enable ∧
    (sampler .enable 0#32 0#7).pins.ccAck = true ∧ (sampler .enable 0#32 0#7).conv.convBusy = false := by decide

theorem witness_CfgRefLoadsTheSettleCounter :
    (sampler .config 0#32 0#7).pins.rst = false ∧ (sampler .config 0#32 0#7).vs.state = .config ∧
    (sampler .config 0#32 0#7).pins.ccAck = true ∧ (sampler .config 0#32 0#7).conv.anEn = true := by decide

theorem witness_TrigStartsAConversion :
    (sampler .trig 0#32 99#7).pins.rst = false ∧ (sampler .trig 0#32 99#7).vs.state = .trig ∧
    (sampler .trig 0#32 99#7).pins.ccAck = true ∧ (sampler .trig 0#32 99#7).conv.anEn = true ∧
    (sampler .trig 0#32 99#7).conv.convBusy = false := by decide

theorem witness_PollObservesCompletion :
    (sampler .poll 0#32 0#7).pins.rst = false ∧ (sampler .poll 0#32 0#7).vs.state = .poll ∧
    (sampler .poll 0#32 0#7).pins.ccAck = true ∧ (sampler .poll 0#32 0#7).conv.anEn = true ∧
    (sampler .poll 0#32 0#7).conv.convBusy = false ∧
    ((sampler .poll 0#32 0#7).setConv { held with convBusy := true }).conv.convBusy = true := by decide

/-- At both ends of the counter: sample 0, and sample 99 with the largest sum. -/
theorem witness_RdRawAddsTheReading :
    ∀ s ∈ [sampler .read 0#32 0#7, sampler .read 6487965#32 99#7],
      s.pins.rst = false ∧ s.vs.state = .read ∧ s.pins.ccAck = true ∧ s.conv.anEn = true ∧
      s.conv.rawReady = true ∧ s.vs.samp.toNat < 100 ∧ s.vs.acc.toNat ≤ s.vs.samp.toNat * 65535 := by decide

theorem witness_DisAnalogReleasesTheSubsystem :
    ∀ s ∈ [sampler .disable 0#32 100#7, sampler .rstdis 0#32 0#7],
      s.pins.rst = false ∧ (s.vs.state = .disable ∨ s.vs.state = .rstdis) ∧ s.pins.ccAck = true := by decide

/-- Each of the six operations, `DIS_ANALOG` in both its states. -/
theorem witness_ConverterOpWaitsForAcknowledge :
    ∀ x ∈ [(Instr.enAnalog, CcOp.enAnalog, VsState.enable), (.cfgRef, .cfgRef, .config), (.trig, .trig, .trig),
        (.poll, .poll, .poll), (.rdRaw, .rdRaw, .read), (.disAnalog, .disAnalog, .disable),
        (.disAnalog, .disAnalog, .rstdis)],
      ccOpOf x.1 = some x.2.1 ∧ ccPort ((sampler x.2.2 0#32 0#7).setPins Pins.reset) = some x.2.1.code ∧
      ((sampler x.2.2 0#32 0#7).setPins Pins.reset).pins.ccAck = false := by decide

theorem witness_EnAnalogWaitsForAnIdleConverter :
    ((sampler .enable 0#32 0#7).setConv { held with convBusy := true }).pins.rst = false ∧
    ((sampler .enable 0#32 0#7).setConv { held with convBusy := true }).vs.state = .enable ∧
    ((sampler .enable 0#32 0#7).setConv { held with convBusy := true }).conv.convBusy = true := by decide

/-- The six converter states of 42 R182, each with its operation issued and acknowledged. -/
theorem witness_UncoveredConverterOpsAreRefused :
    ∀ x ∈ [(CcOp.cfgRef, VsState.config, { held with anEn := false }), (.trig, .trig, { held with anEn := false }),
        (.poll, .poll, { held with anEn := false }), (.rdRaw, .read, { held with anEn := false }),
        (.trig, .trig, { held with convBusy := true }), (.rdRaw, .read, { held with rawReady := false })],
      ccPort ((sampler x.2.1 0#32 0#7).setConv x.2.2) = some x.1.code ∧
      ((sampler x.2.1 0#32 0#7).setConv x.2.2).pins.ccAck = true ∧ ccCovered x.1 x.2.2 = false := by decide

theorem witness_PrimitiveOpsRunOnlyWhereIssued :
    ccOpOf .poll = some .poll ∧ ccPort State.reset ≠ some CcOp.poll.code ∧ bsPort State.reset ≠ some (bsWord 1#1 7#16) ∧
    skPort State.reset ≠ some (skWord false 0x41#8) := by decide

theorem witness_ConverterOpsFrame :
    ccOpOf .rdRaw = some .rdRaw ∧ ∃ t, exec .rdRaw (sampler .read 5#32 7#7) = .next t ∧ t.vs.samp = 8#7 :=
  ⟨rfl, _, rfl, rfl⟩

theorem witness_CommandsFrame :
    (∃ t, exec .measure (presented 0x0100000000#40) = .next t ∧ t.vs.state = .enable) ∧
    ∃ t, exec (.render 1#1 0xFFFF#16 2#16) (presented 0x11FFFF0002#40) = .next t ∧ t.hr.state = .addr :=
  ⟨⟨_, rfl, rfl⟩, _, rfl, rfl⟩

/-- First and last slot, `ADDR` = 0xFFFF, acknowledged and not. -/
theorem witness_BsReadConsumesOneByte :
    ∀ h ∈ [slotRegs .slot 0#5 1#16, slotRegs .slot 15#5 65535#16],
      (renderer h).pins.rst = false ∧ (renderer h).hr.state = .slot ∧ (renderer h).hr.count ≠ 0#16 ∧
      (renderer h).pins.bsAck = true ∧ ((renderer h).setPins Pins.reset).pins.bsAck = false := by decide

theorem witness_BsReadConsumesOneByte_inv :
    Inv (renderer (slotRegs .slot 15#5 1#16)) ∧ (slotRegs .slot 15#5 1#16).count ≠ 0#16 := ⟨inv_slot, by decide⟩

/-- Each of the five characters, at address 0xFFFF. -/
theorem witness_SkPutEmitsTheAddressField :
    ∀ x ∈ [(0#4, 0x46#8), (1#4, 0x46#8), (2#4, 0x46#8), (3#4, 0x46#8), (4#4, 0x20#8)],
      let s := renderer { slotRegs .addr 0#5 1#16 with idx := x.1 }
      s.pins.rst = false ∧ s.pins.skReady = true ∧ s.hr.state = .addr ∧ s.hr.idx = x.1 ∧
      (x.1 ≠ 4#4 → x.2 = hexdigit (s.hr.addr.extractLsb' (12 - 4 * x.1.toNat) 4)) ∧
      skPort s = some (skWord false x.2) := by
  intro x hx
  simp only [List.mem_cons, List.not_mem_nil, or_false] at hx
  rcases hx with rfl | rfl | rfl | rfl | rfl <;> exact ⟨rfl, rfl, rfl, rfl, by decide, by decide⟩

/-- Each character of a byte field and of a blank field, in the last slot. -/
theorem witness_SkPutEmitsTheSlotFields :
    ∀ x ∈ [(HrState.hex, 0#4, 0x34#8), (.hex, 1#4, 0x46#8), (.hex, 2#4, 0x20#8), (.pad, 0#4, 0x20#8),
        (.pad, 1#4, 0x20#8), (.pad, 2#4, 0x20#8)],
      let s := renderer { slotRegs x.1 15#5 0#16 with idx := x.2.1 }
      s.pins.rst = false ∧ s.pins.skReady = true ∧ s.hr.idx.toNat ≤ 2 ∧ s.hr.state = x.1 ∧ s.hr.cur = 0x4F#8 ∧
      skPort s = some (skWord false x.2.2) := by
  intro x hx
  simp only [List.mem_cons, List.not_mem_nil, or_false] at hx
  rcases hx with rfl | rfl | rfl | rfl | rfl | rfl <;> exact ⟨rfl, rfl, by decide, rfl, rfl, by decide⟩

/-- The separator, the first and the last character of a tail of 16, the terminator with and without a byte to come. -/
theorem witness_SkPutEmitsTailAndTerminator :
    Inv (renderer (slotRegs .sep 16#5 0#16)) ∧
    ∀ h ∈ [slotRegs .sep 16#5 0#16, slotRegs .tail 16#5 0#16, { slotRegs .tail 16#5 0#16 with idx := 15#4 },
        slotRegs .cr 16#5 0#16, slotRegs .lf 16#5 0#16, slotRegs .lf 16#5 1#16],
      (renderer h).pins.rst = false ∧ (renderer h).pins.skReady = true ∧ hrPut h ≠ none :=
  ⟨inv_sep, by decide⟩

theorem witness_SkPutWaitsForTheSink :
    skPort ((renderer (slotRegs .lf 16#5 0#16)).setPins Pins.reset) = some (skWord true 0x0A#8) ∧
    ((renderer (slotRegs .lf 16#5 0#16)).setPins Pins.reset).pins.skReady = false := by decide

theorem witness_DrivenSinkWordsAreWellFormed :
    Inv (renderer (slotRegs .lf 16#5 1#16)) ∧ skPort (renderer (slotRegs .lf 16#5 1#16)) = some (skWord true 0x0A#8) ∧
    Inv (renderer (slotRegs .sep 16#5 0#16)) ∧ skPort (renderer (slotRegs .sep 16#5 0#16)) = some (skWord false 0x20#8) :=
  ⟨inv_lf, by decide, inv_sep, by decide⟩

theorem witness_StreamOpsFrame :
    (∃ t, exec (.bsRead 1#1 0xFFFF#16) (renderer (slotRegs .slot 15#5 1#16)) = .next t ∧ t.hr.state = .hex) ∧
    ∃ t, exec (.skPut true 0x0A#8) (renderer (slotRegs .lf 16#5 1#16)) = .next t ∧ t.hr.state = .addr :=
  ⟨⟨_, rfl, rfl⟩, _, rfl, rfl⟩

theorem witness_BlankSlotIssuesNoRead :
    nextEvent (renderer (slotRegs .slot 15#5 0#16)) = .hr ∧ (renderer (slotRegs .slot 15#5 0#16)).pins.rst = false ∧
    (renderer (slotRegs .slot 15#5 0#16)).hr.state = .slot ∧ (renderer (slotRegs .slot 15#5 0#16)).hr.count = 0#16 := by
  decide

theorem witness_SettleCountsDownToTrigger :
    ∀ s ∈ [sampler .settle 0#32 0#7, (sampler .settle 0#32 0#7).setVs { VsRegs.reset with state := .settle, settle := 1 }],
      nextEvent s = .vs ∧ s.pins.rst = false ∧ s.vs.state = .settle ∧ s.vs.settle ≤ 1 := by decide

/-- A zero sum, the largest sum that overflows, and both narrowings. -/
theorem witness_DivisionGivesMillivolts :
    ∀ s ∈ [sampler .div 0#32 100#7, sampler .div 1718#32 100#7],
      nextEvent s = .vs ∧ s.pins.rst = false ∧ s.vs.state = .div ∧ s.params.narrowing = .wrap ∧
      ({ s with params := ⟨.saturate, 1, 3⟩ } : State).params.narrowing = .saturate := by decide

theorem witness_ZeroResultOnlyForZeroSum :
    (0#32).toNat ≤ 6553500 ∧ (6553500#32).toNat ≤ 6553500 ∧ resultOf .wrap 6553500#32 ≠ 0#16 := by decide

/-- 100 full-scale readings, and the sums where the clauses meet. -/
theorem witness_RealisticSumsGiveTheQuotient :
    ((List.replicate 100 1023#16).length = 100 ∧ ∀ r ∈ List.replicate 100 1023#16, readingInRange r) ∧
    (0#32).toNat = 0 ∧ 1 ≤ (1718#32).toNat ∧ (1718#32).toNat ≤ 1718 ∧ 1719 ≤ (1719#32).toNat ∧
    (1719#32).toNat ≤ (102300#32).toNat ∧ (102300#32).toNat = 102300 :=
  ⟨⟨List.length_replicate, by
    intro r hr
    rw [(List.mem_replicate.mp hr).2]
    exact Nat.le_refl _⟩, by decide⟩

theorem witness_ConverterCompletesAConversion :
    nextEvent ((sampler .poll 0#32 0#7).setScript [.convDone 1023#16]) = .convDone 1023#16 ∧
    ((sampler .poll 0#32 0#7).setConv { held with convBusy := true }).conv.convBusy = true ∧
    (sampler .poll 0#32 0#7).conv.convBusy = false := by decide

theorem witness_NoStaleCompletion :
    ((sampler .poll 0#32 0#7).setConv { held with convBusy := true }).owned = true ∧
    ((sampler .poll 0#32 0#7).setConv { held with convBusy := true }).conv.convBusy = true ∧
    ∃ t, step ((sampler .poll 0#32 0#7).setConv { held with convBusy := true }) = .next t ∧ t.vs.state = .poll :=
  ⟨rfl, rfl, _, rfl, rfl⟩

theorem witness_ForeignOwnerOnlyOutsideTheWindow :
    nextEvent (bench [.foreign held]) = .foreign held ∧ (bench [.foreign held]).owned = false ∧
    (bench [.foreign held]).vs.state = .idle ∧ ((bench [.foreign held]).setOwned true).owned = true ∧
    (dividing.setScript [.foreign held]).vs.state ≠ .idle := by decide

/-- 70_reset R229: outside the window of 42 R181 but with `VS_BUSY` = 1. -/
theorem test_foreign_owner_refused_while_busy :
    step (dividing.setScript [.foreign held]) = .refused .converterOwned ∧
    step ((sampler .enable 0#32 0#7).setOwned false |>.setScript [.foreign held]) = .refused .converterOwned ∧
    step (State.reset.setScript [.foreign held]) = .refused .converterOwned := ⟨rfl, rfl, rfl⟩

theorem witness_SourceContentReadsAsWritten :
    nextEvent ((renderer HrRegs.reset).setScript [.sourceWrite 1#1 0xFFFF#16 0#8]) = .sourceWrite 1#1 0xFFFF#16 0#8 ∧
    Memory.wf (renderer HrRegs.reset).sources = true := by decide

theorem witness_ResetAbandonsBothUnits : nextEvent (bench [.reset true]) = .reset true := by decide

theorem witness_NothingMovesInReset :
    Inv (inReset .vs) ∧ (inReset .vs).pins.rst = true ∧ nextEvent (inReset .vs) = .vs ∧ nextEvent (inReset .hr) = .hr ∧
    nextEvent (inReset .dispatch) = .dispatch := ⟨inv_inReset _, rfl, rfl, rfl, rfl⟩

theorem witness_ResultPortShowsOnlyACompletedMeasurement : (finished .vs).vs.done = true ∧ (bench []).vs.done = false := by decide

/-- An edge out of the sample loop, the poll loop, a reset, an accepted `MEASURE`. -/
theorem witness_SamplerFollowsItsStateGraph :
    (∃ t, step (sampler .read 0#32 99#7) = .next t ∧ t.vs.state = .disable) ∧
    (∃ t, step ((sampler .poll 0#32 0#7).setConv { held with convBusy := true }) = .next t ∧ t.vs.state = .poll) ∧
    (∃ t, step ((sampler .poll 0#32 0#7).setScript [.reset true]) = .next t ∧ t.vs.state = .rstdis) ∧
    (∃ t, step (presented 0x0100000000#40) = .next t ∧ t.vs.state = .enable) :=
  ⟨⟨_, rfl, rfl⟩, ⟨_, rfl, rfl⟩, ⟨_, rfl, rfl⟩, _, rfl, rfl⟩

theorem witness_RendererFollowsItsStateGraph :
    (Inv (renderer (slotRegs .lf 16#5 1#16)) ∧ ∃ t, step (renderer (slotRegs .lf 16#5 1#16)) = .next t ∧
      t.hr.state = .addr) ∧
    (Inv (renderer (slotRegs .tail 16#5 0#16)) ∧ ∃ t, step (renderer (slotRegs .tail 16#5 0#16)) = .next t ∧
      t.hr.state = .tail) ∧
    (Inv (presented 0x1012340000#40) ∧ ∃ t, step (presented 0x1012340000#40) = .next t ∧ t.hr.state = .idle) :=
  ⟨⟨inv_lf, _, rfl, rfl⟩, ⟨inv_tail, _, rfl, rfl⟩, inv_presented _, _, rfl, rfl⟩

theorem witness_DoneOnlyAfterDisable :
    (Inv (sampler .disable 102300#32 100#7) ∧ ∃ t, step (sampler .disable 102300#32 100#7) = .next t ∧ t.vs.state = .div) ∧
    (Inv dividing ∧ ∃ t, step dividing = .next t ∧ t.vs.done = true) :=
  ⟨⟨inv_disable, _, rfl, rfl⟩, inv_div, _, rfl, rfl⟩

theorem witness_ResultHoldsUntilNextMeasure :
    Inv (finished .hr) ∧ (finished .hr).vs.done = true ∧ ∃ t, step (finished .hr) = .next t ∧ t.vs.done = true :=
  ⟨inv_finished _, rfl, _, rfl, rfl⟩

theorem witness_SettleWaitBeforeEveryTrigger :
    Inv (sampler .trig 0#32 0#7) ∧ ccPort (sampler .trig 0#32 0#7) = some CcOp.trig.code ∧
    settleTimeOk (sampler .trig 0#32 0#7).params :=
  ⟨inv_trig, rfl, by simp [settleTimeOk, sampler, bench, State.setVs, State.setConv, State.setOwned]⟩

theorem witness_UnitsTouchOnlyTheirOwnState :
    (∃ t, step (sampler .trig 0#32 0#7) = .next t ∧ nextEvent (sampler .trig 0#32 0#7) = .vs) ∧
    ∃ t, step (renderer (slotRegs .lf 16#5 1#16)) = .next t ∧ nextEvent (renderer (slotRegs .lf 16#5 1#16)) = .hr :=
  ⟨⟨_, rfl, rfl⟩, _, rfl, rfl⟩

/-- A render of no bytes and one whose addresses wrap. -/
theorem witness_RenderPutsTheWholeDump :
    ∀ x ∈ [(0#1, 0x1234#16, 0#16, 0x1012340000#40), (1#1, 0xFFF8#16, 17#16, 0x11FFF80011#40)],
      let s := (presented x.2.2.2).setScript (renderScript x.2.2.1 ++ [])
      s.pins.rst = false ∧ s.pins.bsAck = true ∧ s.pins.skReady = true ∧ s.hr.state = .idle ∧ s.pins.cmdValid = true ∧
      s.pins.cmdWord = 0x1000000000#40 + x.1.setWidth 40 <<< 32 + x.2.1.setWidth 40 <<< 16 + x.2.2.1.setWidth 40 ∧
      s.script = renderScript x.2.2.1 ++ [] := by
  intro x hx
  simp only [List.mem_cons, List.not_mem_nil, or_false] at hx
  rcases hx with rfl | rfl <;> exact ⟨rfl, rfl, rfl, rfl, rfl, by decide, rfl⟩

/-- V15, and 100 largest readings answered at the first poll. -/
theorem witness_MeasureComputesTheSupply :
    ∀ c ∈ [(0, 0#16), (2, 0xFFFF#16)],
      let s := (presented 0x0100000000#40).setScript (measureScript 3 (List.replicate 100 c) ++ [])
      (List.replicate 100 c).length = 100 ∧ s.pins.rst = false ∧ s.pins.ccAck = true ∧ s.vs.state = .idle ∧
      s.conv.convBusy = false ∧ s.pins.cmdValid = true ∧ s.pins.cmdWord = 0x0100000000#40 ∧
      s.script = measureScript s.params.settleCycles (List.replicate 100 c) ++ [] := by
  intro c _
  exact ⟨List.length_replicate, rfl, rfl, rfl, rfl, rfl, rfl, rfl⟩

theorem witness_BusyConverterServesOnlyTheSampler :
    dividing.vs.state ≠ .idle ∧ ∃ t, step dividing = .next t ∧ t.conv = dividing.conv := ⟨by decide, _, rfl, rfl⟩

end Sys2Proof.Tests
end

section
/-!
PROOFS. The scope of one move (00_scope R11): a step runs the operation its port word decodes to, and a converter operation waits for its
acknowledge (20_memory R61).
-/

namespace Sys2Proof.Machine

/-! ## What a step does with the word it fetches -/

/-- A step whose port word decodes to an operation executes that operation. -/
theorem step_of_decoded {s : State} {p : PortWord} {i : Instr}
    (hp : fetchWord (nextEvent s) (takeEvent s) = some p) (hi : decode p = .instr i) :
    step s = exec i (takeEvent s) := by
  simp only [step, hp, hi]

/-- A step whose move carries no port word is that move's own effect. -/
theorem step_of_no_word {s : State} (hp : fetchWord (nextEvent s) (takeEvent s) = none) :
    step s = otherMove (nextEvent s) (takeEvent s) := by
  simp only [step, hp]

/-- Settles O5, by the two outcomes of the fetch. -/
theorem stepRunsTheDecodedWord : Obligations.StepRunsTheDecodedWord := by
  intro s
  exact ⟨fun _ _ hp hi => step_of_decoded hp hi, step_of_no_word⟩

/-! ## A converter operation is a transaction on the CC port -/

/-- Each converter operation means one transaction on the CC port, with the VS step of its own. -/
theorem exec_eq_ccTransact {i : Instr} {op : CcOp} (h : ccOpOf i = some op) (s : State) :
    ∃ vsNext : Half → VsRegs, exec i s = ccTransact op s vsNext := by
  cases i with
  | enAnalog => cases h; rw [exec, execEnAnalog]; exact ⟨_, rfl⟩
  | cfgRef => cases h; rw [exec, execCfgRef]; exact ⟨_, rfl⟩
  | trig => cases h; rw [exec, execTrig]; exact ⟨_, rfl⟩
  | poll => cases h; rw [exec, execPoll]; exact ⟨_, rfl⟩
  | rdRaw => cases h; rw [exec, execRdRaw]; exact ⟨_, rfl⟩
  | disAnalog => cases h; rw [exec, execDisAnalog]; exact ⟨_, rfl⟩
  | measure => cases h
  | render src startOffset count => cases h
  | bsRead src pos => cases h
  | skPut eol data => cases h

/-- With `cc_ack` = 0 no operation is acknowledged. -/
theorem ccAcknowledged_of_ccAck_low {s : State} (op : CcOp) (h : s.pins.ccAck = false) :
    ccAcknowledged op s = false := by
  simp [ccAcknowledged, h]

/-- An operation VS drives that is not acknowledged leaves everything as it is. -/
theorem ccTransact_waits {op : CcOp} {s : State} (vsNext : Half → VsRegs) (hp : ccPort s = some op.code)
    (ha : ccAcknowledged op s = false) : ccTransact op s vsNext = .next s := by
  simp [ccTransact, hp, ha]

/-- Settles O22: each of the six operations is a transaction on the CC port, and `cc_ack` = 0 acknowledges none. -/
theorem converterOpWaitsForAcknowledge : Obligations.ConverterOpWaitsForAcknowledge := by
  intro i op s hop hp hack
  obtain ⟨vsNext, hexec⟩ := exec_eq_ccTransact hop s
  rw [hexec]
  exact ccTransact_waits vsNext hp (ccAcknowledged_of_ccAck_low op hack)

end Sys2Proof.Machine
end

section
/-!
PROOFS. The host's view of the state (10_state R40 to R45): the bits of STATUS, the RESULT port, and both after reset.
-/

namespace Sys2Proof.Machine

/-! ## The STATUS and RESULT ports -/

/-- Below its last bit, a word that ends in a flag is the word before that flag. -/
theorem getLsbD_succ_append_ofBool {n : Nat} (x : BitVec n) (b : Bool) (i : Nat) :
    (x ++ BitVec.ofBool b).getLsbD (i + 1) = x.getLsbD i := by
  simp [BitVec.getLsbD_append]

theorem vsBusy_eq_decide (s : State) : vsBusy s = decide (s.vs.state ≠ .idle) := by
  unfold vsBusy
  cases s.vs.state <;> rfl

theorem hrBusy_eq_decide (s : State) : hrBusy s = decide (s.hr.state ≠ .idle) := by
  unfold hrBusy
  cases s.hr.state <;> rfl

/-- Settles O47: STATUS is built by appending one flag at a time, so bit `k` is reached by passing over `k` flags. -/
theorem statusPortShowsTheFlags : Obligations.StatusPortShowsTheFlags := by
  intro s
  rw [← vsBusy_eq_decide, ← hrBusy_eq_decide]
  unfold status
  refine ⟨?_, ?_, ?_, ?_, ?_, ?_, ?_, ?_⟩ <;>
    simp only [getLsbD_succ_append_ofBool, getLsbD_zero_append_ofBool, BitVec.getLsbD_zero]

theorem resultPort_of_done {s : State} (h : s.vs.done = true) : resultPort s = some s.vs.result := by
  simp [resultPort, h]

theorem resultPort_of_not_done {s : State} (h : s.vs.done = false) : resultPort s = none := by
  simp [resultPort, h]

/-- Settles O48, by the value of `VS_DONE`. -/
theorem resultPortShowsOnlyACompletedMeasurement : Obligations.ResultPortShowsOnlyACompletedMeasurement :=
  fun _ => ⟨resultPort_of_done, resultPort_of_not_done⟩

/-! ## Reset -/

/-- Settles O6: R45's table is what `VsRegs.reset`, `HrRegs.reset` and `State.reset` write, and STATUS is evaluated on it. -/
theorem resetLeavesControlState : Obligations.ResetLeavesControlState :=
  ⟨rfl, rfl, rfl, rfl, rfl, rfl, rfl, rfl⟩

end Sys2Proof.Machine
end

section
/-!
PROOFS. The frame of a unit's turn (10_state R20, 20_memory R50), and who changes `CMD_ERR` (10_state R37, 60_exceptions R191).
-/

namespace Sys2Proof.Machine

/-! ## What a turn of VS leaves as it is -/

/-- What VS has no access to is the same in both states. -/
structure SameOutsideVs (s t : State) : Prop where
  hr : t.hr = s.hr
  sources : t.sources = s.sources
  sink : t.sink = s.sink
  cmdErr : t.cmdErr = s.cmdErr
  pins : t.pins = s.pins
  params : t.params = s.params

theorem SameOutsideVs.trans {s t u : State} (h₁ : SameOutsideVs s t) (h₂ : SameOutsideVs t u) : SameOutsideVs s u where
  hr := h₂.hr.trans h₁.hr
  sources := h₂.sources.trans h₁.sources
  sink := h₂.sink.trans h₁.sink
  cmdErr := h₂.cmdErr.trans h₁.cmdErr
  pins := h₂.pins.trans h₁.pins
  params := h₂.params.trans h₁.params

theorem sameOutsideVs_takeEvent (s : State) : SameOutsideVs s (takeEvent s) := by
  constructor <;> simp

theorem sameOutsideVs_setVs (s : State) (x : VsRegs) : SameOutsideVs s (s.setVs x) := by
  constructor <;> rfl

theorem sameOutsideVs_setConv (s : State) (x : Converter) : SameOutsideVs s (s.setConv x) := by
  constructor <;> rfl

theorem sameOutsideVs_ccEnvironment (op : CcOp) (s : State) : SameOutsideVs s (ccEnvironment op s) := by
  constructor <;> rfl

theorem sameOutsideVs_settleStep (s : State) : SameOutsideVs s (settleStep s) := by
  unfold settleStep
  split <;> exact (sameOutsideVs_setConv s _).trans (sameOutsideVs_setVs _ _)

theorem sameOutsideVs_divStep (s : State) : SameOutsideVs s (divStep s) := by
  rw [divStep_eq]
  exact sameOutsideVs_setVs s _

theorem step_vs_sameOutsideVs {s t : State} (he : nextEvent s = .vs) (h : step s = .next t) : SameOutsideVs s t := by
  have htake := sameOutsideVs_takeEvent s
  obtain rfl | ⟨_, _, rfl⟩ | ⟨_, _, rfl⟩ | ⟨_, _, op, _, _, _, rfl⟩ := step_vs_cases he h
  · exact htake
  · exact htake.trans (sameOutsideVs_settleStep _)
  · exact htake.trans (sameOutsideVs_divStep _)
  · exact (htake.trans (sameOutsideVs_ccEnvironment op _)).trans (sameOutsideVs_setVs _ _)

/-! ## What a turn of HR leaves as it is -/

/-- What HR has no write access to is the same in both states. -/
structure SameOutsideHr (s t : State) : Prop where
  vs : t.vs = s.vs
  conv : t.conv = s.conv
  owned : t.owned = s.owned
  sources : t.sources = s.sources
  cmdErr : t.cmdErr = s.cmdErr
  pins : t.pins = s.pins
  params : t.params = s.params
  freeIx : t.freeIx = s.freeIx

theorem sameOutsideHr_takeEvent (s : State) : SameOutsideHr s (takeEvent s) := by
  constructor <;> simp

/-- HR writes its own registers and, through the sink port, what the sink has received. -/
theorem SameOutsideHr.setHr {s t : State} (h : SameOutsideHr s t) (x : HrRegs) : SameOutsideHr s (t.setHr x) :=
  ⟨h.vs, h.conv, h.owned, h.sources, h.cmdErr, h.pins, h.params, h.freeIx⟩

theorem SameOutsideHr.setSink {s t : State} (h : SameOutsideHr s t) (x : List SinkItem) :
    SameOutsideHr s (t.setSink x) :=
  ⟨h.vs, h.conv, h.owned, h.sources, h.cmdErr, h.pins, h.params, h.freeIx⟩

theorem step_hr_sameOutsideHr {s t : State} (he : nextEvent s = .hr) (h : step s = .next t) : SameOutsideHr s t := by
  have htake := sameOutsideHr_takeEvent s
  obtain rfl | ⟨_, _, _, rfl⟩ | ⟨_, _, _, _, rfl⟩ | ⟨_, _, _, _, rfl⟩ := step_hr_cases he h
  · exact htake
  · exact htake.setHr _
  · exact htake.setHr _
  · exact (htake.setSink _).setHr _

/-- Settles O54, by the frame of a turn of each unit. -/
theorem unitsTouchOnlyTheirOwnState : Obligations.UnitsTouchOnlyTheirOwnState := by
  intro s t hstep
  refine ⟨fun he => ?_, fun he => ?_⟩
  · obtain ⟨hhr, hsources, hsink, hcmdErr, hpins, hparams⟩ := step_vs_sameOutsideVs he hstep
    exact ⟨hhr, hsources, hsink, hcmdErr, hpins, hparams⟩
  · obtain ⟨hvs, hconv, howned, hsources, hcmdErr, hpins, hparams, hfreeIx⟩ := step_hr_sameOutsideHr he hstep
    exact ⟨hvs, hconv, howned, hsources, hcmdErr, hpins, hparams, hfreeIx⟩

/-! ## Who changes `CMD_ERR` -/

/-- The dispatcher keeps `CMD_ERR`, or sets it for an illegal word. -/
theorem step_dispatch_cmdErr {s t : State} (he : nextEvent s = .dispatch) (h : step s = .next t) :
    t.cmdErr = s.cmdErr ∨
    (t.cmdErr = true ∧ s.pins.cmdValid = true ∧ decodeCommand s.pins.cmdWord = .reject .illegalCommand) := by
  obtain rfl | ⟨_, _, _, _, rfl⟩ | ⟨_, _, _, src, a, c, _, rfl⟩ | ⟨_, hvalid, hillegal, rfl⟩ := step_dispatch_cases he h
  · exact .inl (takeEvent_cmdErr s)
  · exact .inl (takeEvent_cmdErr s)
  · exact .inl (takeEvent_cmdErr s)
  · exact .inr ⟨rfl, hvalid, hillegal⟩

theorem completeConversion_cmdErr (r : Half) (s : State) : (completeConversion r s).cmdErr = s.cmdErr := by
  unfold completeConversion
  split <;> rfl

/-- A move of the environment keeps `CMD_ERR`, or is a reset and clears it. -/
theorem otherMove_cmdErr {e : Event} {s t : State} (hvs : e ≠ .vs) (hhr : e ≠ .hr) (h : otherMove e s = .next t) :
    t.cmdErr = s.cmdErr ∨ (e = .reset true ∧ t.cmdErr = false) := by
  cases e with
  | vs => exact absurd rfl hvs
  | hr => exact absurd rfl hhr
  | reset level =>
    cases h
    cases level
    · exact .inl rfl
    · exact .inr ⟨rfl, rfl⟩
  | convDone r =>
    cases h
    exact .inl (completeConversion_cmdErr r s)
  | foreign c =>
    obtain ⟨_, _, rfl⟩ := foreignMove_next h
    exact .inl rfl
  | dispatch | present _ | withdraw | ccAck _ _ | bsAck _ | skReady _ | sourceWrite _ _ _ =>
    cases h
    exact .inl rfl

/-- All that a step can do to `CMD_ERR`: keep it, clear it in a reset, or set it for an illegal word on the command port. -/
theorem step_cmdErr_cases {s t : State} (h : step s = .next t) :
    t.cmdErr = s.cmdErr ∨ (nextEvent s = .reset true ∧ t.cmdErr = false) ∨
    (nextEvent s = .dispatch ∧ t.cmdErr = true ∧ s.pins.cmdValid = true ∧
      decodeCommand s.pins.cmdWord = .reject .illegalCommand) := by
  by_cases hvs : nextEvent s = .vs
  · exact .inl (step_vs_sameOutsideVs hvs h).cmdErr
  by_cases hhr : nextEvent s = .hr
  · exact .inl (step_hr_sameOutsideHr hhr h).cmdErr
  by_cases hdisp : nextEvent s = .dispatch
  · exact (step_dispatch_cmdErr hdisp h).imp_right fun hset => .inr ⟨hdisp, hset⟩
  · rw [step_environment hvs hhr hdisp] at h
    rw [← takeEvent_cmdErr s]
    exact (otherMove_cmdErr hvs hhr h).imp_right .inl

/-- Settles O15, by the three things a step can do to `CMD_ERR`. -/
theorem cmdErrChangesOnlyByIllegalWordOrReset : Obligations.CmdErrChangesOnlyByIllegalWordOrReset := by
  intro s t hstep
  obtain hkeep | ⟨hreset, hclear⟩ | ⟨hdisp, hset, hvalid, hillegal⟩ := step_cmdErr_cases hstep
  · exact ⟨fun hs => .inl (hkeep.trans hs), fun hs ht => by simp [hkeep, hs] at ht⟩
  · exact ⟨fun _ => .inr hreset, fun _ ht => by simp [hclear] at ht⟩
  · exact ⟨fun _ => .inl hset, fun _ _ => ⟨hdisp, hvalid, hillegal⟩⟩

end Sys2Proof.Machine
end

section
/-!
PROOFS. The content of the byte sources and the two stream ports (20_memory R52 to R59, R73): a platform write, a byte read by HR
(41_hex_renderer R144), and a put the sink does not take.
-/

namespace Sys2Proof.Machine

/-! ## A platform write to a source -/

/-- A platform write writes one address of the sources. -/
theorem step_sourceWrite {s : State} {src : BitVec 1} {pos : Half} {b : Byte} (he : nextEvent s = .sourceWrite src pos b) :
    step s = .next ((takeEvent s).setSources (Memory.write s.sources (sourceAddress src pos) b)) := by
  rw [step_environment (by simp [he]) (by simp [he]) (by simp [he]), he, otherMove, takeEvent_sources]

/-- Different positions, of one source or of two, have different addresses. -/
theorem sourceAddress_ne {src src' : BitVec 1} {pos pos' : Half} (h : (src', pos') ≠ (src, pos)) :
    sourceAddress src' pos' ≠ sourceAddress src pos := by
  intro heq
  obtain ⟨hsrc, hpos⟩ := sourceAddress_inj heq
  exact h (by rw [hsrc, hpos])

/-- Settles O44, by read-after-write at the address of the position, and by the injectivity of `sourceAddress` at every other. -/
theorem sourceContentReadsAsWritten : Obligations.SourceContentReadsAsWritten := by
  intro s src pos b he hwf
  exact ⟨_, step_sourceWrite he, Memory.wf_write hwf (sourceAddress_lt src pos), Memory.read_write_same hwf,
    fun _ _ hne => Memory.read_write_ne (sourceAddress_ne hne)⟩

/-! ## A read on the BS port -/

theorem bsPort_of_consuming {s : State} (hrst : s.pins.rst = false) (hslot : s.hr.state = .slot)
    (hcount : s.hr.count ≠ 0#16) : bsPort s = some (bsWord s.hr.src s.hr.addr) := by
  simp [bsPort, hrst, hslot, hcount]

/-- A read HR drives that is not acknowledged leaves everything as it is. -/
theorem bsTransact_waits {src : BitVec 1} {pos : Half} {s : State} (hrNext : Byte → HrRegs)
    (hp : bsPort s = some (bsWord src pos)) (ha : s.pins.bsAck = false) : bsTransact src pos s hrNext = .next s := by
  simp [bsTransact, hp, ha]

theorem bsTransact_answered {src : BitVec 1} {pos : Half} {s : State} (hrNext : Byte → HrRegs)
    (hp : bsPort s = some (bsWord src pos)) (ha : s.pins.bsAck = true) :
    bsTransact src pos s hrNext = .next (s.setHr (hrNext (sourceByte s src pos))) := by
  simp [bsTransact, hp, ha]

/-- The projection with the bounds of the printable range written out (30_encoding R94). -/
theorem proj_eq (b : Byte) : proj b = if 0x20#8 ≤ b ∧ b ≤ 0x7E#8 then b else 0x2E#8 := by
  simp only [proj, isPrintable, Bool.and_eq_true, decide_eq_true_eq]
  rfl

/-- The read records the projection at `TAIL[TLEN]` and leaves the other elements; with `TLEN` past the end, all of them. -/
theorem hrAfterRead_tail (h : HrRegs) (b : Byte) (k : Fin 16) :
    (hrAfterRead h b).tail[k] = if k.val = h.tlen.toNat then proj b else h.tail[k] := by
  simp [hrAfterRead, Vector.getElem_setIfInBounds, eq_comm]

theorem hrAfterRead_count_toNat {h : HrRegs} (b : Byte) (hcount : h.count ≠ 0#16) :
    (hrAfterRead h b).count.toNat = h.count.toNat - 1 := by
  simp only [hrAfterRead]
  bv_omega

theorem hrAfterRead_addr_toNat (h : HrRegs) (b : Byte) :
    (hrAfterRead h b).addr.toNat = (h.addr.toNat + 1) % 2 ^ 16 :=
  BitVec.toNat_add h.addr 1#16

/-- In the consuming arm of a run each slot before this one has recorded its byte, and this one has room. -/
theorem tlen_of_consuming {s : State} (hinv : Inv s) (hslot : s.hr.state = .slot) (hcount : s.hr.count ≠ 0#16) :
    s.hr.tlen = s.hr.col ∧ s.hr.tlen.toNat + 1 ≤ 16 := by
  have hhr := hinv.hr
  simp only [hrInv, hslot] at hhr
  obtain ⟨hcol, _, htlen, _⟩ := hhr
  exact ⟨BitVec.eq_of_toNat_eq (htlen hcount), by rw [htlen hcount]; exact hcol⟩

/-- Settles O28: the read is the one transaction on the BS port, and `hrAfterRead` gives each register after it. -/
theorem bsReadConsumesOneByte : Obligations.BsReadConsumesOneByte := by
  intro s hrst hslot hcount
  have hport := bsPort_of_consuming hrst hslot hcount
  refine ⟨hport, fun hinv => tlen_of_consuming hinv hslot hcount, fun hack => bsTransact_waits _ hport hack,
    fun hack => ⟨_, bsTransact_answered _ hport hack, rfl, hrAfterRead_count_toNat _ hcount,
      hrAfterRead_addr_toNat _ _, rfl, rfl, rfl, rfl, rfl, rfl, fun k => ?_⟩⟩
  rw [hrAfterRead_tail, proj_eq]
  rfl

/-! ## A put on the SK port -/

/-- A put HR drives that the sink is not ready for leaves everything as it is. -/
theorem skTransact_waits {eol : Bool} {data : Byte} {s : State} (hrNext : HrRegs)
    (hp : skPort s = some (skWord eol data)) (hk : s.pins.skReady = false) :
    skTransact eol data s hrNext = .next s := by
  simp [skTransact, hp, hk]

theorem skTransact_taken {eol : Bool} {data : Byte} {s : State} (hrNext : HrRegs)
    (hp : skPort s = some (skWord eol data)) (hk : s.pins.skReady = true) :
    skTransact eol data s hrNext = .next ((s.setSink (s.sink ++ [⟨eol, data⟩])).setHr hrNext) := by
  simp [skTransact, hp, hk]

/-- Settles O32: a put is a transaction on the SK port, which waits while `sk_ready` = 0. -/
theorem skPutWaitsForTheSink : Obligations.SkPutWaitsForTheSink :=
  fun _ _ _ hport hready => skTransact_waits _ hport hready

end Sys2Proof.Machine
end

section
/-!
PROOFS. A turn of VS and a turn of HR commute (20_memory R68): HR's turn is never refused, its result is a function of what VS cannot
write, and VS's turn neither reads nor writes what HR's turn changes.
-/

namespace Sys2Proof.Machine

/-! ## Two steps, one after the other -/

/-- Goes on from the next state of a result, if it is one. -/
def andThen (r : Result) (f : State → Result) : Result :=
  match r with
  | .next s => f s
  | .fault e => .fault e
  | .refused e => .refused e

theorem andThen_next (s : State) (f : State → Result) : andThen (.next s) f = f s := rfl

theorem andThen_congr {r : Result} {f g : State → Result} (h : ∀ t, r = .next t → f t = g t) :
    andThen r f = andThen r g := by
  cases r with
  | next t => exact h t rfl
  | fault e => rfl
  | refused e => rfl

theorem run_two (s : State) : Host.Core.run core 2 s = andThen (step s) step := by
  change Host.Core.run core 2 s = andThen (core.step s) core.step
  simp only [Host.Core.run]
  cases core.step s with
  | next t => simp only [andThen]; cases core.step t <;> rfl
  | fault e => rfl
  | refused e => rfl

/-! ## What a turn of HR changes -/

/-- The state with what a turn of HR changes put in: its registers, what the sink has received, and the moves still to come. -/
def withHrTurn (h : HrRegs) (k : List SinkItem) (rest : List Event) (s : State) : State :=
  ((s.setScript rest).setSink k).setHr h

theorem nextEvent_of_script {s : State} {e : Event} {rest : List Event} (h : s.script = e :: rest) :
    nextEvent s = e := by
  simp [nextEvent, h]

theorem takeEvent_of_script {s : State} {e : Event} {rest : List Event} (h : s.script = e :: rest) :
    takeEvent s = s.setScript rest := by
  simp [takeEvent, h]

section
variable {s : State} {rest : List Event} (hscript : s.script = .hr :: rest)
include hscript

/-- HR has no step: in reset, and idle. -/
theorem step_hr_none (h : s.pins.rst = true ∨ s.hr.state = .idle) :
    step s = .next (withHrTurn s.hr s.sink rest s) := by
  have hsilent : hrSilent (takeEvent s) = takeEvent s := by
    rcases h with hrst | hidle
    · simp [hrSilent, hrst]
    · simp [hrSilent, hidle]
  rw [step_hr_silent (nextEvent_of_script hscript) (h.imp_right .inl), hsilent, takeEvent_of_script hscript]
  rfl

theorem step_hr_blank (hrst : s.pins.rst = false) (hslot : s.hr.state = .slot) (hcount : s.hr.count = 0#16) :
    step s = .next (withHrTurn (hrAfterBlank s.hr) s.sink rest s) := by
  have hsilent : hrSilent (takeEvent s) = (takeEvent s).setHr (hrAfterBlank s.hr) := by
    simp [hrSilent, hrst, hslot, hcount]
  rw [step_hr_silent (nextEvent_of_script hscript) (.inr (.inr ⟨hslot, hcount⟩)), hsilent, takeEvent_of_script hscript]
  rfl

/-- In the consuming arm HR waits for `bs_ack`, then takes the byte. -/
theorem step_hr_consume (hrst : s.pins.rst = false) (hslot : s.hr.state = .slot) (hcount : s.hr.count ≠ 0#16) :
    step s = .next (withHrTurn
      (if s.pins.bsAck then hrAfterRead s.hr (sourceByte s s.hr.src s.hr.addr) else s.hr) s.sink rest s) := by
  have hport : bsPort (s.setScript rest) = some (bsWord s.hr.src s.hr.addr) :=
    bsPort_of_consuming (s := s.setScript rest) hrst hslot hcount
  rw [step_hr_read (nextEvent_of_script hscript) hrst hslot hcount, takeEvent_of_script hscript, exec, execBsRead]
  cases hack : s.pins.bsAck with
  | false => exact bsTransact_waits _ hport hack
  | true => exact bsTransact_answered _ hport hack

/-- In a state that puts HR waits for `sk_ready`, then hands the byte over. -/
theorem step_hr_hand {x : SinkItem} (hrst : s.pins.rst = false) (hx : hrPut s.hr = some x) :
    step s = .next (withHrTurn (if s.pins.skReady then hrAfterPut s.hr else s.hr)
      (if s.pins.skReady then s.sink ++ [x] else s.sink) rest s) := by
  have hport : skPort (s.setScript rest) = some (skWord x.eol x.data) := by simp [skPort, hrst, hx]
  rw [step_hr_put (nextEvent_of_script hscript) hrst hx, takeEvent_of_script hscript, exec, execSkPut]
  cases hready : s.pins.skReady with
  | false => exact skTransact_waits _ hport hready
  | true => exact skTransact_taken _ hport hready

end

/-- From all states that agree with `s` outside VS, a turn of HR answers, with one and the same registers and sink. -/
theorem step_hr_uniform (s : State) : ∃ (h : HrRegs) (k : List SinkItem), ∀ (t : State) (rest : List Event),
    SameOutsideVs s t → t.script = .hr :: rest → step t = .next (withHrTurn h k rest t) := by
  by_cases hnone : s.pins.rst = true ∨ s.hr.state = .idle
  · refine ⟨s.hr, s.sink, fun t rest hst hscript => ?_⟩
    rw [← hst.hr, ← hst.sink]
    exact step_hr_none hscript (by rwa [hst.pins, hst.hr])
  obtain ⟨hrst, hactive⟩ := not_or.mp hnone
  rw [Bool.not_eq_true] at hrst
  rcases hrPut_cases s.hr with hidle | ⟨hslot, hcount⟩ | ⟨hslot, hcount⟩ | ⟨x, hx, _, _⟩
  · exact absurd hidle hactive
  · refine ⟨hrAfterBlank s.hr, s.sink, fun t rest hst hscript => ?_⟩
    rw [← hst.hr] at hslot hcount ⊢
    rw [← hst.pins] at hrst
    rw [← hst.sink]
    exact step_hr_blank hscript hrst hslot hcount
  · refine ⟨if s.pins.bsAck then hrAfterRead s.hr (sourceByte s s.hr.src s.hr.addr) else s.hr, s.sink,
      fun t rest hst hscript => ?_⟩
    rw [sourceByte, ← hst.sources]
    rw [← hst.hr] at hslot hcount ⊢
    rw [← hst.pins] at hrst ⊢
    rw [← hst.sink]
    exact step_hr_consume hscript hrst hslot hcount
  · refine ⟨if s.pins.skReady then hrAfterPut s.hr else s.hr, if s.pins.skReady then s.sink ++ [x] else s.sink,
      fun t rest hst hscript => ?_⟩
    rw [← hst.hr] at hx ⊢
    rw [← hst.pins] at hrst ⊢
    rw [← hst.sink]
    exact step_hr_hand hscript hrst hx

/-! ## What a turn of VS keeps apart from -/

section
variable (h : HrRegs) (k : List SinkItem) (rest : List Event) (s : State)

theorem ccTransact_withHrTurn (op : CcOp) (vsNext : Half → VsRegs) :
    ccTransact op (withHrTurn h k rest s) vsNext =
      andThen (ccTransact op s vsNext) fun t => .next (withHrTurn h k rest t) := by
  have hport : ccPort (withHrTurn h k rest s) = ccPort s := rfl
  have hack : ccAcknowledged op (withHrTurn h k rest s) = ccAcknowledged op s := rfl
  have hconv : (withHrTurn h k rest s).conv = s.conv := rfl
  unfold ccTransact
  rw [hport, hack, hconv]
  split
  · rfl
  · split
    · rfl
    · split <;> rfl

theorem exec_withHrTurn {i : Instr} {op : CcOp} (hi : ccOpOf i = some op) :
    exec i (withHrTurn h k rest s) = andThen (exec i s) fun t => .next (withHrTurn h k rest t) := by
  cases i with
  | enAnalog | cfgRef | trig | poll | rdRaw | disAnalog =>
    simp only [exec, execEnAnalog, execCfgRef, execTrig, execPoll, execRdRaw, execDisAnalog]
    exact ccTransact_withHrTurn h k rest s _ _
  | measure | render _ _ _ | bsRead _ _ | skPut _ _ => cases hi

theorem settleStep_withHrTurn : settleStep (withHrTurn h k rest s) = withHrTurn h k rest (settleStep s) := by
  have hvs : (withHrTurn h k rest s).vs = s.vs := rfl
  unfold settleStep
  rw [hvs]
  split <;> rfl

theorem divStep_withHrTurn : divStep (withHrTurn h k rest s) = withHrTurn h k rest (divStep s) := by
  rw [divStep_eq, divStep_eq]
  rfl

theorem vsSilent_withHrTurn : vsSilent (withHrTurn h k rest s) = withHrTurn h k rest (vsSilent s) := by
  have hpins : (withHrTurn h k rest s).pins = s.pins := rfl
  have hvs : (withHrTurn h k rest s).vs = s.vs := rfl
  unfold vsSilent
  rw [hpins, hvs]
  split
  · rfl
  · cases s.vs.state with
    | settle => exact settleStep_withHrTurn h k rest s
    | div => exact divStep_withHrTurn h k rest s
    | rstdis | idle | enable | config | trig | poll | read | disable => rfl

end

/-- Each converter code stands for one operation, which every turn of VS that carries the code executes. -/
theorem step_vs_op_uniform (op : CcOp) : ∃ i, ccOpOf i = some op ∧
    ∀ s : State, nextEvent s = .vs → ccPort s = some op.code → step s = exec i (takeEvent s) := by
  have hdecode : ∃ i, ccOpOf i = some op ∧ decode (.cc op.code) = .instr i := by
    cases op <;> exact ⟨_, rfl, rfl⟩
  obtain ⟨i, hop, hi⟩ := hdecode
  exact ⟨i, hop, fun s he hp => step_of_decoded (by simp [he, fetchWord, hp]) hi⟩

/-- A turn of VS gives the same result whether HR's turn has been taken or not, with HR's turn put in at the end. -/
theorem step_vs_withHrTurn (h : HrRegs) (k : List SinkItem) (rest rest' : List Event) (s : State) :
    step (withHrTurn h k (.vs :: rest) s) =
      andThen (step (s.setScript (.vs :: rest'))) fun t => .next (withHrTurn h k rest t) := by
  have hport : ccPort (withHrTurn h k (.vs :: rest) s) = ccPort s := rfl
  have hport' : ccPort (s.setScript (.vs :: rest')) = ccPort s := rfl
  have htake : takeEvent (withHrTurn h k (.vs :: rest) s) = withHrTurn h k rest (s.setScript rest') := rfl
  rcases ccPort_cases s with hp | ⟨op, hp, _, _⟩
  · rw [step_vs_silent rfl (hport.trans hp), step_vs_silent rfl (hport'.trans hp), htake, vsSilent_withHrTurn]
    rfl
  · obtain ⟨i, hop, hrun⟩ := step_vs_op_uniform op
    rw [hrun _ rfl (hport.trans hp), hrun _ rfl (hport'.trans hp), htake, exec_withHrTurn h k rest _ hop]
    rfl

theorem sameOutsideVs_setScript (s : State) (x : List Event) : SameOutsideVs s (s.setScript x) := by
  constructor <;> rfl

/-- A turn of VS takes its own move off the script and no other. -/
theorem step_vs_script {s t : State} (he : nextEvent s = .vs) (h : step s = .next t) :
    t.script = (takeEvent s).script := by
  obtain rfl | ⟨_, _, rfl⟩ | ⟨_, _, rfl⟩ | ⟨_, _, op, _, _, _, rfl⟩ := step_vs_cases he h
  · rfl
  · unfold settleStep
    split <;> rfl
  · rw [divStep_eq]
    rfl
  · rfl

/-- Settles O55: both orders are the turn of VS with HR's turn put in at the end. -/
theorem unitTurnsCommute : Obligations.UnitTurnsCommute := by
  intro s rest
  obtain ⟨h, k, hhr⟩ := step_hr_uniform s
  have hrFirst : step (s.setScript (.hr :: .vs :: rest)) = .next (withHrTurn h k (.vs :: rest) s) :=
    hhr _ _ (sameOutsideVs_setScript s _) rfl
  rw [run_two, run_two, hrFirst, andThen_next, step_vs_withHrTurn h k rest (.hr :: rest)]
  exact andThen_congr fun t ht =>
    hhr t rest ((sameOutsideVs_setScript s _).trans (step_vs_sameOutsideVs rfl ht)) (step_vs_script rfl ht)

end Sys2Proof.Machine
end

section
/-!
PROOFS. Encoding and decoding are inverse on the legal words (30_encoding R101): on each port a word is put together from exactly the fields
the decoder takes out of it.
-/

namespace Sys2Proof

/-! ## A word is its fields put together -/

theorem append_extractLsb' {n k : Nat} (w : BitVec (n + k)) : w.extractLsb' k n ++ w.extractLsb' 0 k = w :=
  (BitVec.extractLsb'_append_extractLsb'_eq_extractLsb' (by omega)).trans BitVec.extractLsb'_eq_self

theorem append_eq_append_iff {n k : Nat} {x x' : BitVec n} {y y' : BitVec k} :
    x ++ y = x' ++ y' ↔ x = x' ∧ y = y' := by
  refine ⟨fun h => ⟨?_, ?_⟩, fun ⟨hx, hy⟩ => by rw [hx, hy]⟩
  · rw [← extractLsb'_append_high x y, h, extractLsb'_append_high]
  · rw [← extractLsb'_append_low x y, h, extractLsb'_append_low]

/-! ## The ports of the units -/

theorem bsWord_of_decodeBs {w : BsWord} {i : Instr} (h : decodeBs w = .instr i) : encode i = .bs w := by
  cases h
  exact congrArg PortWord.bs (append_extractLsb' (n := 1) (k := 16) w)

theorem ofBool_getLsbD_eq_extractLsb' {n : Nat} (w : BitVec n) (k : Nat) :
    BitVec.ofBool (w.getLsbD k) = w.extractLsb' k 1 := by
  ext i hi
  obtain rfl : i = 0 := by omega
  simp

theorem skWord_of_decodeSk {w : SkWord} {i : Instr} (h : decodeSk w = .instr i) : encode i = .sk w := by
  cases h
  refine congrArg PortWord.sk ?_
  rw [skWord, ofBool_getLsbD_eq_extractLsb']
  exact append_extractLsb' (n := 1) (k := 8) w

theorem ccWord_of_decodeCc {w : CcWord} {i : Instr} (h : decodeCc w = .instr i) : encode i = .cc w := by
  unfold decodeCc at h
  repeat
    split at h
    · rename_i hw
      cases h
      rw [hw]
      rfl
  cases h

/-! ## Command words -/

/-- A command word is its seven fixed bits, the source select and the two operand fields (30_encoding R81, R85). -/
theorem commandWord_eq_append (w : CommandWord) :
    w = (w.extractLsb' 33 7 ++ w.extractLsb' 32 1) ++ (w.extractLsb' 16 16 ++ w.extractLsb' 0 16) := by
  rw [BitVec.extractLsb'_append_extractLsb'_eq_extractLsb' (by rfl),
    BitVec.extractLsb'_append_extractLsb'_eq_extractLsb' (by rfl)]
  exact (append_extractLsb' (n := 8) (k := 32) w).symm

/-- The operation code is the seven fixed bits and the source select. -/
theorem opcode_eq_append (w : CommandWord) : w.extractLsb' 32 8 = w.extractLsb' 33 7 ++ w.extractLsb' 32 1 :=
  (BitVec.extractLsb'_append_extractLsb'_eq_extractLsb' (start₁ := 32) (len₁ := 1) (len₂ := 7) rfl).symm

theorem fourParts_eq_iff {f f' : BitVec 7} {src src' : BitVec 1} {a a' c c' : Half} :
    (f ++ src) ++ (a ++ c) = (f' ++ src') ++ (a' ++ c') ↔ (f = f' ∧ src = src') ∧ a = a' ∧ c = c' :=
  append_eq_append_iff.trans (and_congr append_eq_append_iff append_eq_append_iff)

/-- A word is a given word exactly if its four parts are. -/
theorem commandWord_eq_iff (w : CommandWord) (f : BitVec 7) (src : BitVec 1) (a c : Half) :
    w = (f ++ src) ++ (a ++ c) ↔
      (w.extractLsb' 33 7 = f ∧ w.extractLsb' 32 1 = src) ∧ w.extractLsb' 16 16 = a ∧ w.extractLsb' 0 16 = c := by
  conv_lhs => rw [commandWord_eq_append w]
  exact fourParts_eq_iff

/-- The decoder in terms of the parts of the word: `MEASURE` has one word, `RENDER` every word with its fixed bits. -/
theorem decodeCommand_eq (w : CommandWord) :
    decodeCommand w =
      if w = 0x0100000000#40 then .instr .measure
      else if w.extractLsb' 33 7 = 0b0001000#7 then
        .instr (.render (w.extractLsb' 32 1) (w.extractLsb' 16 16) (w.extractLsb' 0 16))
      else .reject .illegalCommand := by
  have hmeasure : (w.extractLsb' 32 8 = 0x01#8 ∧ w.extractLsb' 16 16 = 0#16 ∧ w.extractLsb' 0 16 = 0#16) ↔
      w = 0x0100000000#40 := by
    rw [opcode_eq_append, show 0x01#8 = 0#7 ++ 1#1 by rfl, append_eq_append_iff]
    exact (commandWord_eq_iff w 0#7 1#1 0#16 0#16).symm
  have hfixed : (w.extractLsb' 32 8).extractLsb' 1 7 = w.extractLsb' 33 7 := by
    rw [opcode_eq_append, extractLsb'_append_high]
  have hsrc : (w.extractLsb' 32 8).extractLsb' 0 1 = w.extractLsb' 32 1 := by
    rw [opcode_eq_append, extractLsb'_append_low]
  simp only [decodeCommand, hmeasure, hfixed, hsrc]

theorem decodeCommand_eq_measure_iff (w : CommandWord) :
    decodeCommand w = .instr .measure ↔ w = 0x0100000000#40 := by
  rw [decodeCommand_eq]
  split
  · simp_all
  · split <;> simp_all

theorem decodeCommand_eq_render_iff (w : CommandWord) (src : BitVec 1) (a c : Half) :
    decodeCommand w = .instr (.render src a c) ↔ w = renderWord src a c := by
  rw [decodeCommand_eq, renderWord, commandWord_eq_iff]
  split
  · rename_i hw
    simp [hw]
  · split <;> rename_i hfixed <;> simp [hfixed]

/-- Settles O1: each port's words are put together from the fields its decoder takes out. -/
theorem decodeOfEncodeIsIdentity : Obligations.DecodeOfEncodeIsIdentity := by
  intro i
  cases i with
  | measure => exact (decodeCommand_eq_measure_iff _).mpr rfl
  | render src a c => exact (decodeCommand_eq_render_iff _ src a c).mpr rfl
  | enAnalog | cfgRef | trig | poll | rdRaw | disAnalog => rfl
  | bsRead src pos => exact decodeBs_bsWord src pos
  | skPut eol data => exact decodeSk_skWord eol data

theorem commandWord_of_decodeCommand {w : CommandWord} {i : Instr} (h : decodeCommand w = .instr i) :
    encode i = .cw w := by
  rcases decodeCommand_cases w with hd | ⟨src, a, c, hd⟩ | hd
  · rw [(decodeCommand_eq_measure_iff w).mp hd]
    cases hd.symm.trans h
    rfl
  · rw [(decodeCommand_eq_render_iff w src a c).mp hd]
    cases hd.symm.trans h
    rfl
  · cases hd.symm.trans h

/-- Settles O2, port by port. -/
theorem encodeOfDecodeIsTheWord : Obligations.EncodeOfDecodeIsTheWord := by
  intro p i h
  cases p with
  | cw w => exact commandWord_of_decodeCommand h
  | cc w => exact ccWord_of_decodeCc h
  | bs w => exact bsWord_of_decodeBs h
  | sk w => exact skWord_of_decodeSk h

/-! ## Match and mask -/

/-- The mask of `MEASURE` is the whole word (30_encoding R84). -/
theorem and_measureMask (w : CommandWord) : w &&& 0xFFFFFFFFFF#40 = w := BitVec.and_allOnes

/-- The mask of `RENDER` is its seven fixed bits (30_encoding R85). -/
theorem and_renderMask_eq_iff (w : CommandWord) :
    w &&& 0xFE00000000#40 = 0x1000000000#40 ↔ w.extractLsb' 33 7 = 0b0001000#7 := by
  have hmask : 0xFE00000000#40 = (BitVec.allOnes 7 ++ 0#1) ++ (0#16 ++ 0#16) := rfl
  have hmatch : 0x1000000000#40 = (0b0001000#7 ++ 0#1) ++ (0#16 ++ 0#16) := rfl
  conv_lhs => rw [commandWord_eq_append w, hmask, hmatch, BitVec.and_append, BitVec.and_append, BitVec.and_append]
  refine fourParts_eq_iff.trans ?_
  simp only [BitVec.and_allOnes, BitVec.and_zero, and_true]

theorem toNat_append_eq_add {n k : Nat} (x : BitVec n) (y : BitVec k) :
    (x ++ y).toNat = x.toNat * 2 ^ k + y.toNat := by
  rw [BitVec.toNat_append, ← Nat.shiftLeft_add_eq_or_of_lt y.isLt, Nat.shiftLeft_eq]

theorem renderWord_eq_ofNat (src : BitVec 1) (a c : Half) :
    renderWord src a c = BitVec.ofNat 40 (0x1000000000 + src.toNat * 2 ^ 32 + a.toNat * 2 ^ 16 + c.toNat) := by
  have hsrc := src.isLt
  have ha := a.isLt
  have hc := c.isLt
  apply BitVec.eq_of_toNat_eq
  simp only [renderWord, toNat_append_eq_add, BitVec.toNat_ofNat]
  omega

/-- Settles O3: the masked matches are the decoder's two conditions on the parts of the word. -/
theorem commandWordsFollowMatchAndMask : Obligations.CommandWordsFollowMatchAndMask := by
  refine ⟨fun w hm => ?_, fun w hr => ?_, fun w hm hr => ?_, rfl, fun src a c => ?_⟩
  · rw [and_measureMask] at hm
    exact (decodeCommand_eq_measure_iff w).mpr hm
  · rw [and_renderMask_eq_iff] at hr
    exact (decodeCommand_eq_render_iff w _ _ _).mpr ((commandWord_eq_iff w _ _ _ _).mpr ⟨⟨hr, rfl⟩, rfl, rfl⟩)
  · rw [and_measureMask] at hm
    rw [Ne, and_renderMask_eq_iff] at hr
    rw [decode, decodeCommand_eq, if_neg hm, if_neg hr]
  · exact congrArg PortWord.cw (renderWord_eq_ofNat src a c)

end Sys2Proof
end

section
/-!
PROOFS. The command port (30_encoding R82, R86, log 18): which words wait, which leave the port, and what an illegal word does; and the
primitive operations, which no program can write (30_encoding R99, log 13).
-/

namespace Sys2Proof.Machine

/-! ## A command waits or is accepted -/

theorem acceptCommand_waits {ready : Bool} {s : State} (start : State → State)
    (h : s.pins.rst = true ∨ ready = false) : acceptCommand ready s start = .next s := by
  rcases acceptCommand_cases ready s start with ⟨hrst, hready, _⟩ | ⟨_, hwaits⟩
  · rw [hrst, hready] at h
    simp at h
  · exact hwaits

/-- Settles O12: both commands are accepted by one operation, which waits unless the unit is ready. -/
theorem commandForBusyUnitWaits : Obligations.CommandForBusyUnitWaits := by
  intro s
  refine ⟨fun h => ?_, fun h src a c => ?_⟩
  · exact acceptCommand_waits _ (h.symm.imp_right beq_false_of_ne)
  · exact acceptCommand_waits _ (h.symm.imp_right beq_false_of_ne)

/-! ## A turn of the dispatcher -/

theorem endPresentation_cmdValid (s : State) : (endPresentation s).pins.cmdValid = false := rfl

/-- A command leaves the port exactly if it is accepted, when the start of its unit drives no wire. -/
theorem acceptCommand_leavesPort {ready : Bool} {s : State} {start : State → State}
    (hstart : ∀ u, (start u).pins = u.pins) (hv : s.pins.cmdValid = true) :
    ∃ t, acceptCommand ready s start = .next t ∧ (t.pins.cmdValid = false ↔ (!s.pins.rst && ready) = true) ∧
      ((!s.pins.rst && ready) = false → t = s) := by
  rcases acceptCommand_cases ready s start with ⟨hrst, hready, ht⟩ | ⟨hwait, ht⟩
  · exact ⟨_, ht, by simp [hstart, endPresentation_cmdValid, hrst, hready], by simp [hrst, hready]⟩
  · refine ⟨_, ht, ?_, fun _ => rfl⟩
    rcases hwait with h | h <;> simp [h, hv]

/-- An illegal word leaves the port unless the block is in reset. -/
theorem acceptIllegal_leavesPort {s : State} (hv : s.pins.cmdValid = true) :
    ((acceptIllegal s).pins.cmdValid = false ↔ s.pins.rst = false) ∧ (s.pins.rst = true → acceptIllegal s = s) := by
  unfold acceptIllegal
  cases hrst : s.pins.rst with
  | false => simp [raiseFault_eCmd, endPresentation_cmdValid]
  | true => simp [hv]

/-- Settles O13, by the three readings of the word: for each, `cmd_ready` is the condition under which it is accepted. -/
theorem wordLeavesPortExactlyWhenReady : Obligations.WordLeavesPortExactlyWhenReady := by
  intro s he hv
  have hv' : (takeEvent s).pins.cmdValid = true := by rw [takeEvent_pins, hv]
  rcases step_dispatch he hv with ⟨hd, hstep⟩ | ⟨src, a, c, hd, hstep⟩ | ⟨hd, hstep⟩
  · have hready : cmdReady s = (!(takeEvent s).pins.rst && (takeEvent s).vs.state == .idle) := by simp [cmdReady, hd]
    rw [hstep, hready]
    exact acceptCommand_leavesPort (fun _ => rfl) hv'
  · have hready : cmdReady s = (!(takeEvent s).pins.rst && (takeEvent s).hr.state == .idle) := by simp [cmdReady, hd]
    rw [hstep, hready]
    exact acceptCommand_leavesPort (fun _ => rfl) hv'
  · have hready : cmdReady s = !(takeEvent s).pins.rst := by simp [cmdReady, hd]
    obtain ⟨hleaves, hwaits⟩ := acceptIllegal_leavesPort hv'
    rw [hstep, hready]
    exact ⟨_, rfl, by simpa using hleaves, by simpa using hwaits⟩

/-! ## An illegal word -/

/-- The fixed bits of `RENDER` leave two operation codes (30_encoding R85). -/
theorem opcode_of_renderBits {opc : BitVec 8} (h : opc.extractLsb' 1 7 = 0b0001000#7) : opc = 0x10#8 ∨ opc = 0x11#8 := by
  revert h
  revert opc
  decide

theorem decodeCommand_illegal {w : CommandWord}
    (h : w.extractLsb' 32 8 ≠ 0x01#8 ∧ w.extractLsb' 32 8 ≠ 0x10#8 ∧ w.extractLsb' 32 8 ≠ 0x11#8 ∨
      w.extractLsb' 32 8 = 0x01#8 ∧ (w.extractLsb' 16 16 ≠ 0#16 ∨ w.extractLsb' 0 16 ≠ 0#16)) :
    decodeCommand w = .reject .illegalCommand := by
  have hmeasure : ¬ (w.extractLsb' 32 8 = 0x01#8 ∧ w.extractLsb' 16 16 = 0#16 ∧ w.extractLsb' 0 16 = 0#16) := by
    tauto
  have hrender : (w.extractLsb' 32 8).extractLsb' 1 7 ≠ 0b0001000#7 := by
    rcases h with ⟨_, h10, h11⟩ | ⟨h01, _⟩
    · exact fun hbits => (opcode_of_renderBits hbits).elim h10 h11
    · rw [h01]
      decide
  simp only [decodeCommand, if_neg hmeasure, if_neg hrender]

/-- Bit 6 of STATUS is `CMD_ERR` (10_state R40). -/
theorem status_getLsbD_cmdErr (s : State) : (status s).getLsbD 6 = s.cmdErr := by
  simp only [status, getLsbD_succ_append_ofBool, getLsbD_zero_append_ofBool]

/-- Settles O14: the word decodes to nothing, and with `rst` = 0 such a word is accepted and flagged. -/
theorem illegalWordOnlySetsCmdErr : Obligations.IllegalWordOnlySetsCmdErr := by
  intro s he hv hrst hword
  have hd := decodeCommand_illegal hword
  refine ⟨by simp [cmdReady, hrst, hd], false, _, ?_, rfl, status_getLsbD_cmdErr _⟩
  have hp : fetchWord (nextEvent s) (takeEvent s) = some (.cw s.pins.cmdWord) := by simp [he, fetchWord, hv]
  simp [step, hp, decode, hd, rejectedWord, acceptIllegal, hrst, raiseFault_eCmd, endPresentation_eq]

/-! ## A primitive operation no unit drives -/

/-- Settles O25: every primitive operation is a transaction on its port, which looks first at what the port carries. -/
theorem primitiveOpsRunOnlyWhereIssued : Obligations.PrimitiveOpsRunOnlyWhereIssued := by
  refine ⟨fun i op s hop hp => ?_, fun src pos s hp => ?_, fun eol b s hp => ?_⟩
  · obtain ⟨vsNext, hexec⟩ := exec_eq_ccTransact hop s
    rw [hexec, ccTransact, if_pos hp]
  · rw [exec, execBsRead, bsTransact, if_pos hp]
  · rw [exec, execSkPut, skTransact, if_pos hp]

end Sys2Proof.Machine
end

section
/-!
PROOFS. The size of a render's text (30_encoding R91, 41_hex_renderer R153).
-/

namespace Sys2Proof.Machine

theorem addressField_length (a : Half) : (addressField a).length = 5 := rfl

/-- A row's hex field takes 16 slots of three characters, however many bytes it shows. -/
theorem hexField_length {bytes : List Byte} (h : bytes.length ≤ 16) : (hexField bytes).length = 48 := by
  have hfields : (bytes.flatMap byteField).length = bytes.length * 3 := by
    simp [List.length_flatMap, byteField]
  rw [hexField, List.length_append, hfields, List.length_replicate]
  omega

theorem rowItems_length {a : Half} {bytes : List Byte} (h : bytes.length ≤ 16) :
    (rowItems a bytes).length = 56 + bytes.length := by
  simp only [rowItems, List.length_append, List.length_map, List.length_cons, List.length_nil, addressField_length,
    hexField_length h]
  omega

/-- Only the line feed that ends a row is marked. -/
theorem rowItems_marks (a : Half) (bytes : List Byte) : (rowItems a bytes).filter (fun x => x.eol) = [⟨true, lineFeed⟩] := by
  have hunmarked (l : List Byte) : (l.map (SinkItem.mk false)).filter (fun x => x.eol) = [] := by
    simp [List.filter_map, Function.comp_def]
  rw [rowItems, List.filter_append, hunmarked]
  rfl

theorem bytesFrom_length (m : Memory) (src : BitVec 1) (a : Half) (n : Nat) : (bytesFrom m src a n).length = n := by
  simp [bytesFrom]

/-- Rows enough for the bytes hold 56 characters each and one more for each byte. -/
theorem dumpRows_length (m : Memory) (src : BitVec 1) (rows : Nat) (a : Half) (n : Nat) (h : n ≤ 16 * rows) :
    (dumpRows m src rows a n).length = 56 * rows + n := by
  induction rows generalizing a n with
  | zero =>
    obtain rfl : n = 0 := by omega
    rfl
  | succ rows ih =>
    rw [dumpRows, List.length_append, rowItems_length (by rw [bytesFrom_length]; exact Nat.min_le_right n 16),
      bytesFrom_length, ih _ _ (by omega)]
    omega

theorem dumpRows_marks (m : Memory) (src : BitVec 1) (rows : Nat) (a : Half) (n : Nat) :
    ((dumpRows m src rows a n).filter fun x => x.eol).length = rows := by
  induction rows generalizing a n with
  | zero => rfl
  | succ rows ih =>
    rw [dumpRows, List.filter_append, List.length_append, rowItems_marks, ih, List.length_singleton]
    omega

theorem le_mul_rowCount (n : Nat) : n ≤ 16 * rowCount n := by
  unfold rowCount
  omega

/-- Settles O57, by induction on the rows, of which there are enough for all bytes. -/
theorem dumpHasTheStatedLength : Obligations.DumpHasTheStatedLength :=
  fun m src a c => ⟨dumpRows_length m src _ a _ (le_mul_rowCount c.toNat), dumpRows_marks m src _ a _⟩

end Sys2Proof.Machine
end

section
/-!
PROOFS. The renderer's part of the invariant: what HR puts is a byte of 30_encoding R95 with the mark of 20_memory R58, and every step of HR
(41_hex_renderer R141 to R152) keeps the ranges of its row counters.
-/

namespace Sys2Proof.Machine

/-! ## The characters of a row -/

theorem isPrintable_hexdigit (n : BitVec 4) : isPrintable (hexdigit n) = true := by
  revert n
  decide

theorem isPrintable_proj (b : Byte) : isPrintable (proj b) = true := by
  unfold proj
  split
  · assumption
  · rfl

theorem isPrintable_space : isPrintable space = true := rfl

theorem isPrintable_addrChar (h : HrRegs) : isPrintable (addrChar h) = true := by
  unfold addrChar
  split
  · exact isPrintable_hexdigit _
  · exact isPrintable_space

theorem isPrintable_hexChar (h : HrRegs) : isPrintable (hexChar h) = true := by
  unfold hexChar
  split
  · exact isPrintable_hexdigit _
  · split
    · exact isPrintable_hexdigit _
    · exact isPrintable_space

/-- An unmarked printable byte is a word a sink can receive: the line feed is not printable. -/
theorem wellFormed_of_isPrintable {b : Byte} (h : isPrintable b = true) : (Instr.skPut false b).wellFormed = true := by
  have hne : b ≠ 0x0A#8 := by
    rintro rfl
    exact absurd h (by decide)
  simp [Instr.wellFormed, eolMarkFits, isSinkByte, h, hne]

/-- What HR puts is an unmarked printable byte, the carriage return, or in `HR_LF` the marked line feed. -/
theorem hrPut_form {h : HrRegs} {x : SinkItem} (hinv : hrInv h) (hx : hrPut h = some x) :
    (h.state ≠ .lf ∧ x.eol = false ∧ isPrintable x.data = true) ∨
      (h.state ≠ .lf ∧ x = ⟨false, carriageReturn⟩) ∨ (h.state = .lf ∧ x = ⟨true, lineFeed⟩) := by
  unfold hrPut at hx
  cases hs : h.state <;> rw [hs] at hx <;> cases hx
  case addr => exact .inl ⟨nofun, rfl, isPrintable_addrChar h⟩
  case hex => exact .inl ⟨nofun, rfl, isPrintable_hexChar h⟩
  case pad | sep => exact .inl ⟨nofun, rfl, isPrintable_space⟩
  case tail =>
    rw [hrInv, hs] at hinv
    obtain ⟨hidx, _, _, _, htail⟩ := hinv
    exact .inl ⟨nofun, rfl, htail ⟨h.idx.toNat, h.idx.isLt⟩ hidx⟩
  case cr => exact .inr (.inl ⟨nofun, rfl⟩)
  case lf => exact .inr (.inr ⟨rfl, rfl⟩)

theorem hrPut_wellFormed {h : HrRegs} {x : SinkItem} (hinv : hrInv h) (hx : hrPut h = some x) :
    (Instr.skPut x.eol x.data).wellFormed = true := by
  rcases hrPut_form hinv hx with ⟨_, heol, hprint⟩ | ⟨_, rfl⟩ | ⟨_, rfl⟩
  · rw [heol]
    exact wellFormed_of_isPrintable hprint
  · rfl
  · rfl

theorem hrPut_eol_iff {h : HrRegs} {x : SinkItem} (hinv : hrInv h) (hx : hrPut h = some x) :
    x.eol = true ↔ h.state = .lf := by
  rcases hrPut_form hinv hx with ⟨hs, heol, _⟩ | ⟨hs, rfl⟩ | ⟨hs, rfl⟩
  · simp [heol, hs]
  · simp [hs]
  · simp [hs]

/-- Two sink words are one only if mark and byte are the same. -/
theorem skWord_inj {eol eol' : Bool} {b b' : Byte} (h : skWord eol b = skWord eol' b') : eol = eol' ∧ b = b' := by
  have hdecode := (decodeSk_skWord eol b).symm.trans ((congrArg decodeSk h).trans (decodeSk_skWord eol' b'))
  simpa using hdecode

theorem hrPut_of_skPort {s : State} {eol : Bool} {b : Byte} (h : skPort s = some (skWord eol b)) :
    hrPut s.hr = some ⟨eol, b⟩ := by
  unfold skPort at h
  split at h
  · cases h
  · obtain ⟨⟨eol', b'⟩, hx, hword⟩ := Option.map_eq_some_iff.mp h
    obtain ⟨rfl, rfl⟩ := skWord_inj hword
    exact hx

/-- Settles O33: the word on the SK port is the one HR puts, and the invariant says what that can be. -/
theorem drivenSinkWordsAreWellFormed : Obligations.DrivenSinkWordsAreWellFormed := by
  intro s eol b hinv hport
  have hx := hrPut_of_skPort hport
  exact ⟨hrPut_wellFormed hinv.hr hx, hrPut_eol_iff hinv.hr hx⟩

/-! ## The row counters -/

section
variable {h : HrRegs}

theorem hrInv_hrAfterAddr (hs : h.state = .addr) (hinv : hrInv h) : hrInv (hrAfterAddr h) := by
  simp only [hrInv, hs] at hinv
  obtain ⟨hidx, hcount⟩ := hinv
  unfold hrAfterAddr
  split
  · simp only [hrInv, hs]
    exact ⟨by bv_omega, hcount⟩
  · simp [hrInv, hcount, tailPrintable]

/-- The end of a slot's field: the next slot, or after the sixteenth the separating space. -/
theorem hrInv_nextSlot (hcol : h.col.toNat < 16) (hlow : 1 ≤ h.tlen.toNat) (hhigh : h.tlen.toNat ≤ h.col.toNat + 1)
    (hfull : h.count ≠ 0#16 → h.tlen.toNat = h.col.toNat + 1) (htail : tailPrintable h) :
    hrInv { h with
      idx := 0#4, col := h.col + 1#5
      state := if h.col + 1#5 = Config.rowCols then .sep else .slot } := by
  have hnext : (h.col + 1#5).toNat = h.col.toNat + 1 := by bv_omega
  by_cases hlast : h.col + 1#5 = Config.rowCols
  · have hsixteen : h.col.toNat + 1 = 16 := by rw [← hnext, hlast]; rfl
    rw [if_pos hlast]
    exact ⟨hlast, hlow, hhigh.trans hsixteen.le, fun hc => (hfull hc).trans hsixteen, htail⟩
  · have hroom : h.col.toNat + 1 ≠ 16 := fun he => hlast (BitVec.eq_of_toNat_eq (hnext.trans he))
    rw [if_neg hlast]
    simp only [hrInv, hnext]
    exact ⟨by omega, hhigh, hfull, fun hzero => by simp [hzero] at hnext, fun _ => hlow, htail⟩

theorem hrInv_hrAfterSlotChar_hex (hs : h.state = .hex) (hinv : hrInv h) : hrInv (hrAfterSlotChar h) := by
  simp only [hrInv, hs] at hinv
  obtain ⟨hidx, hcol, htlen, htail⟩ := hinv
  unfold hrAfterSlotChar
  split
  · simp only [hrInv, hs]
    exact ⟨by bv_omega, hcol, htlen, htail⟩
  · exact hrInv_nextSlot hcol (by omega) (by omega) (fun _ => htlen) htail

theorem hrInv_hrAfterSlotChar_pad (hs : h.state = .pad) (hinv : hrInv h) : hrInv (hrAfterSlotChar h) := by
  simp only [hrInv, hs] at hinv
  obtain ⟨hidx, hcol, hlow, hhigh, hcount, htail⟩ := hinv
  unfold hrAfterSlotChar
  split
  · simp only [hrInv, hs]
    exact ⟨by bv_omega, hcol, hlow, hhigh, hcount, htail⟩
  · exact hrInv_nextSlot hcol hlow (by omega) (fun hc => absurd hcount hc) htail

theorem hrInv_hrAfterTail (hs : h.state = .tail) (hinv : hrInv h) : hrInv (hrAfterTail h) := by
  simp only [hrInv, hs] at hinv
  obtain ⟨hidx, hrow⟩ := hinv
  unfold hrAfterTail
  split
  · exact hrow
  · rename_i hmore
    simp only [hrInv, hs]
    have hsixteen : h.tlen.toNat ≤ 16 := hrow.2.1
    exact ⟨by bv_omega, hrow⟩

theorem hrInv_hrAfterLf (h : HrRegs) : hrInv (hrAfterLf h) := by
  unfold hrAfterLf
  split
  · simp [hrInv]
  · rename_i hcount
    simp [hrInv, hcount]

theorem hrInv_hrAfterPut {x : SinkItem} (hinv : hrInv h) (hx : hrPut h = some x) : hrInv (hrAfterPut h) := by
  cases hs : h.state with
  | idle | slot => simp [hrPut, hs] at hx
  | addr => simpa only [hrAfterPut, hs] using hrInv_hrAfterAddr hs hinv
  | hex => simpa only [hrAfterPut, hs] using hrInv_hrAfterSlotChar_hex hs hinv
  | pad => simpa only [hrAfterPut, hs] using hrInv_hrAfterSlotChar_pad hs hinv
  | sep =>
    simp only [hrInv, hs] at hinv
    simp only [hrAfterPut, hs]
    exact ⟨hinv.2.1, hinv.2⟩
  | tail => simpa only [hrAfterPut, hs] using hrInv_hrAfterTail hs hinv
  | cr =>
    simp only [hrInv, hs] at hinv
    simp only [hrAfterPut, hs]
    exact hinv
  | lf => simpa only [hrAfterPut, hs] using hrInv_hrAfterLf h

/-- The byte consumed is recorded at the end of the tail, as its printable projection. -/
theorem tailPrintable_hrAfterRead (b : Byte) (hroom : h.tlen.toNat < 16) (htail : tailPrintable h) :
    tailPrintable (hrAfterRead h b) := by
  have htlen : (hrAfterRead h b).tlen.toNat = h.tlen.toNat + 1 := by
    simp only [hrAfterRead]
    bv_omega
  intro i hi
  rw [hrAfterRead_tail]
  split
  · exact isPrintable_proj b
  · exact htail i (by omega)

theorem hrInv_hrAfterRead (b : Byte) (hs : h.state = .slot) (hcount : h.count ≠ 0#16) (hinv : hrInv h) :
    hrInv (hrAfterRead h b) := by
  simp only [hrInv, hs] at hinv
  obtain ⟨hcol, _, htlen, _, _, htail⟩ := hinv
  have hfull := htlen hcount
  refine ⟨Nat.zero_le 2, hcol, ?_, tailPrintable_hrAfterRead b (by omega) htail⟩
  simp only [hrAfterRead]
  bv_omega

theorem hrInv_hrAfterBlank (hs : h.state = .slot) (hcount : h.count = 0#16) (hinv : hrInv h) :
    hrInv (hrAfterBlank h) := by
  simp only [hrInv, hs] at hinv
  obtain ⟨hcol, hhigh, _, hfirst, hlow, htail⟩ := hinv
  have hlow' : 1 ≤ h.tlen.toNat := hlow fun hzero => hfirst hzero hcount
  exact ⟨Nat.zero_le 2, hcol, hlow', hhigh, hcount, htail⟩

end

end Sys2Proof.Machine
end

section
/-!
PROOFS. The sampler's part of the invariant: from each sequencer state (40_voltage_sampler R111 to R120, R129) the step VS takes leaves VS and
the converter as the state after it needs them.
-/

namespace Sys2Proof.Machine

/-! ## The sum -/

/-- With fewer than 100 readings added, one more fits: the sum does not wrap (40_voltage_sampler R118). -/
theorem toNat_add_reading {acc : BitVec 32} {n : Nat} (x : Half) (hn : n < Config.nSamp) (hacc : acc.toNat ≤ n * 65535) :
    (acc + x.setWidth 32).toNat = acc.toNat + x.toNat := by
  have hx := x.isLt
  simp only [Config.nSamp] at hn
  rw [BitVec.toNat_add, BitVec.toNat_setWidth]
  omega

theorem toNat_samp_succ {samp : BitVec 7} (h : samp.toNat < Config.nSamp) : (samp + 1#7).toNat = samp.toNat + 1 := by
  simp only [Config.nSamp] at h
  bv_omega

theorem sumBounded_of_zero {v : VsRegs} (h : v.acc = 0#32) : sumBounded v := by
  simp [sumBounded, h]

/-! ## The flags -/

/-- While VS is not idle no measurement is done and no fault flag is raised. -/
theorem flags_clear_of_busy {p : Params} {v : VsRegs} (h : vsFlagsInv p v) (hs : v.state ≠ .idle) :
    v.done = false ∧ v.noread = false ∧ v.range = false := by
  have hdone : v.done = false := by
    rw [← Bool.not_eq_true]
    exact fun hd => hs (h.1 hd).1
  exact ⟨hdone, h.2 hdone⟩

theorem vsFlagsInv_of_clear {p : Params} {v : VsRegs} (hdone : v.done = false) (hnoread : v.noread = false)
    (hrange : v.range = false) : vsFlagsInv p v :=
  ⟨fun hd => absurd (hdone.symm.trans hd) Bool.false_ne_true, fun _ => ⟨hnoread, hrange⟩⟩

theorem vsAfter_flags (op : CcOp) (s : State) :
    (vsAfter op s).done = s.vs.done ∧ (vsAfter op s).noread = s.vs.noread ∧ (vsAfter op s).range = s.vs.range := by
  cases op <;> exact ⟨rfl, rfl, rfl⟩

/-! ## An acknowledged operation -/

section
variable {s : State}

/-- The state after an acknowledged operation of VS. -/
def afterOp (op : CcOp) (s : State) : State := (ccEnvironment op s).setVs (vsAfter op s)

theorem vsInv_afterOp_enAnalog (hs : s.vs.state = .enable) (hbusy : s.conv.convBusy = false) (hinv : vsInv s) :
    vsInv (afterOp .enAnalog s) := by
  rw [vsInv, hs] at hinv
  obtain ⟨_, hacc, hsamp⟩ := hinv
  exact ⟨rfl, rfl, hbusy, hacc, hsamp⟩

theorem vsInv_afterOp_cfgRef (hs : s.vs.state = .config) (hinv : vsInv s) : vsInv (afterOp .cfgRef s) := by
  rw [vsInv, hs] at hinv
  obtain ⟨howned, hen, hbusy, hacc, hsamp⟩ := hinv
  exact ⟨⟨howned, hen, rfl⟩, hbusy, hacc, hsamp, Nat.zero_add _⟩

theorem vsInv_afterOp_trig (hs : s.vs.state = .trig) (hinv : vsInv s) : vsInv (afterOp .trig s) := by
  rw [vsInv, hs] at hinv
  obtain ⟨hsampling, _⟩ := hinv
  exact ⟨hsampling, .inl rfl⟩

theorem vsInv_afterOp_poll (hs : s.vs.state = .poll) (hinv : vsInv s) : vsInv (afterOp .poll s) := by
  rw [vsInv, hs] at hinv
  obtain ⟨hsampling, hready⟩ := hinv
  have hvs : (afterOp .poll s).vs.state = if s.conv.convBusy then .poll else .read := rfl
  cases hbusy : s.conv.convBusy with
  | true =>
    rw [hbusy, if_pos rfl] at hvs
    rw [vsInv, hvs]
    exact ⟨hsampling, .inl hbusy⟩
  | false =>
    rw [hbusy, if_neg Bool.false_ne_true] at hvs
    rw [vsInv, hvs]
    exact ⟨hsampling, hbusy, hready.resolve_left (by simp [hbusy])⟩

theorem vsInv_afterOp_rdRaw (hs : s.vs.state = .read) (hinv : vsInv s) : vsInv (afterOp .rdRaw s) := by
  rw [vsInv, hs] at hinv
  obtain ⟨⟨hheld, hsamp, hsum, hsettled⟩, hbusy, _⟩ := hinv
  have hcount : (s.vs.samp + 1#7).toNat = s.vs.samp.toNat + 1 := toNat_samp_succ hsamp
  have hsum' : sumBounded (afterOp .rdRaw s).vs := by
    have hraw := s.conv.raw.isLt
    have hacc : s.vs.acc.toNat ≤ s.vs.samp.toNat * 65535 := hsum
    change (s.vs.acc + s.conv.raw.setWidth 32).toNat ≤ (s.vs.samp + 1#7).toNat * 65535
    rw [hcount, toNat_add_reading _ hsamp hacc]
    omega
  have hvs : (afterOp .rdRaw s).vs.state =
    if (s.vs.samp + 1#7).toNat = Config.nSamp then .disable else .trig := rfl
  by_cases hlast : (s.vs.samp + 1#7).toNat = Config.nSamp
  · rw [if_pos hlast] at hvs
    rw [vsInv, hvs]
    exact ⟨hheld, hbusy, hlast, hsum'⟩
  · rw [if_neg hlast] at hvs
    rw [vsInv, hvs]
    have hmore : (s.vs.samp + 1#7).toNat < Config.nSamp := lt_of_le_of_ne (by rw [hcount]; exact hsamp) hlast
    exact ⟨⟨hheld, hmore, hsum', hsettled⟩, hbusy⟩

theorem vsInv_afterOp_disAnalog_rstdis (hs : s.vs.state = .rstdis) : vsInv (afterOp .disAnalog s) := by
  have hvs : (afterOp .disAnalog s).vs.state = .idle := if_pos hs
  rw [vsInv, hvs]
  rfl

theorem vsInv_afterOp_disAnalog_disable (hs : s.vs.state = .disable) (hinv : vsInv s) : vsInv (afterOp .disAnalog s) := by
  rw [vsInv, hs] at hinv
  obtain ⟨_, _, hsamp, hsum⟩ := hinv
  have hvs : (afterOp .disAnalog s).vs.state = .div := if_neg (by simp [hs])
  rw [vsInv, hvs]
  exact ⟨rfl, rfl, rfl, rfl, hsamp, hsum⟩

theorem vsInv_afterOp {op : CcOp} (hreq : vsRequest s.vs.state = some op) (hack : ccAcknowledged op s = true)
    (hinv : vsInv s) : vsInv (afterOp op s) := by
  cases hs : s.vs.state <;> rw [hs] at hreq <;> cases hreq
  case rstdis => exact vsInv_afterOp_disAnalog_rstdis hs
  case enable =>
    have hbusy : s.conv.convBusy = false := by simp_all [ccAcknowledged]
    exact vsInv_afterOp_enAnalog hs hbusy hinv
  case config => exact vsInv_afterOp_cfgRef hs hinv
  case trig => exact vsInv_afterOp_trig hs hinv
  case poll => exact vsInv_afterOp_poll hs hinv
  case read => exact vsInv_afterOp_rdRaw hs hinv
  case disable => exact vsInv_afterOp_disAnalog_disable hs hinv

theorem vsFlagsInv_afterOp {op : CcOp} (hreq : vsRequest s.vs.state = some op) (hinv : vsFlagsInv s.params s.vs) :
    vsFlagsInv s.params (vsAfter op s) := by
  have hbusy : s.vs.state ≠ .idle := fun hs => by simp [hs, vsRequest] at hreq
  obtain ⟨hdone, hnoread, hrange⟩ := flags_clear_of_busy hinv hbusy
  obtain ⟨hdone', hnoread', hrange'⟩ := vsAfter_flags op s
  exact vsFlagsInv_of_clear (hdone'.trans hdone) (hnoread'.trans hnoread) (hrange'.trans hrange)

/-! ## The steps that carry no operation -/

theorem settleStep_flags (s : State) :
    (settleStep s).vs.done = s.vs.done ∧ (settleStep s).vs.noread = s.vs.noread ∧
      (settleStep s).vs.range = s.vs.range := by
  unfold settleStep
  split <;> exact ⟨rfl, rfl, rfl⟩

/-- The settle wait: the age of the reference and the periods left always make `SETTLE_CYCLES`, so at its end the age is past them. -/
theorem vsInv_settleStep (hs : s.vs.state = .settle) (hinv : vsInv s) : vsInv (settleStep s) := by
  rw [vsInv, hs] at hinv
  obtain ⟨hheld, hbusy, hacc, hsamp, hage⟩ := hinv
  unfold settleStep
  split
  · rename_i hzero
    have hpast : s.params.settleCycles < s.conv.refAge + 1 := by omega
    have hfirst : s.vs.samp.toNat < Config.nSamp := by rw [hsamp]; decide
    exact ⟨⟨hheld, hfirst, sumBounded_of_zero hacc, hpast⟩, hbusy⟩
  · rename_i hmore
    have hage' : s.conv.refAge + 1 + (s.vs.settle - 1) = s.params.settleCycles := by omega
    simp only [vsInv, State.setVs_vs, hs]
    exact ⟨hheld, hbusy, hacc, hsamp, hage'⟩

theorem vsInv_divStep (hs : s.vs.state = .div) (hinv : vsInv s) : vsInv (divStep s) := by
  rw [vsInv, hs] at hinv
  rw [divStep_eq]
  exact hinv.1

theorem vsFlagsInv_divStep (hs : s.vs.state = .div) (hinv : vsInv s) : vsFlagsInv s.params (divStep s).vs := by
  rw [vsInv, hs] at hinv
  obtain ⟨_, _, _, _, hsamp, hsum⟩ := hinv
  rw [divStep_eq]
  exact ⟨fun _ => ⟨rfl, hsamp, hsum, rfl, rfl, rfl⟩, fun hd => absurd hd.symm Bool.false_ne_true⟩

end

/-! ## The converter's own moves -/

/-- A conversion in flight completes only where VS polls for it, or where VS needs nothing of the converter. -/
theorem vsInv_completeConversion {s : State} (r : Half) (hinv : vsInv s) : vsInv (completeConversion r s) := by
  unfold completeConversion
  split
  · rename_i hbusy
    unfold vsInv at hinv ⊢
    rw [State.setConv_vs]
    cases hs : s.vs.state <;> rw [hs] at hinv
    case rstdis | idle | enable => exact hinv
    case poll => exact ⟨hinv.1, .inr rfl⟩
    case config | settle | trig | read | disable | div => simp [hbusy] at hinv
  · exact hinv

end Sys2Proof.Machine
end

section
/-!
PROOFS. The invariant of the machine is kept by every step (00_scope R11): by a turn of VS, of HR and of the dispatcher, and by every move of
the environment.
-/

namespace Sys2Proof.Machine

section
variable {s t : State}

/-! ## What leaves the invariant as it is -/

theorem Inv.takeEvent (hinv : Inv s) : Inv (takeEvent s) := by
  unfold Machine.takeEvent
  split <;> exact ⟨hinv.vs, hinv.vsFlags, hinv.hr, hinv.memory, hinv.sink, hinv.inReset⟩

/-- The wires other than `rst` are of no concern to the invariant, and `rst` may fall. -/
theorem Inv.setPins {p : Pins} (hinv : Inv s) (hrst : p.rst = true → s.pins.rst = true) : Inv (s.setPins p) :=
  ⟨hinv.vs, hinv.vsFlags, hinv.hr, hinv.memory, hinv.sink, fun h => hinv.inReset (hrst h)⟩

theorem resetInv_of_rst_low (hrst : s.pins.rst = false) : resetInv s :=
  fun h => absurd (hrst.symm.trans h) Bool.false_ne_true

/-- What HR may write, outside reset. -/
theorem Inv.setHr {h : HrRegs} (hinv : Inv s) (hrst : s.pins.rst = false) (hh : hrInv h) : Inv (s.setHr h) :=
  ⟨hinv.vs, hinv.vsFlags, hh, hinv.memory, hinv.sink, resetInv_of_rst_low hrst⟩

theorem Inv.setSink {k : List SinkItem} (hinv : Inv s) (hk : sinkInv k) : Inv (s.setSink k) :=
  ⟨hinv.vs, hinv.vsFlags, hinv.hr, hinv.memory, hk, hinv.inReset⟩

/-- What VS may write, with the converter's answer, outside reset. -/
theorem Inv.of_sameOutsideVs (hinv : Inv s) (hst : SameOutsideVs s t) (hrst : s.pins.rst = false) (hvs : vsInv t)
    (hflags : vsFlagsInv s.params t.vs) : Inv t where
  vs := hvs
  vsFlags := by rw [hst.params]; exact hflags
  hr := by rw [hst.hr]; exact hinv.hr
  memory := by rw [hst.sources]; exact hinv.memory
  sink := by rw [hst.sink]; exact hinv.sink
  inReset := resetInv_of_rst_low (by rw [hst.pins, hrst])

/-! ## A turn of VS -/

theorem Inv.settleStep (hinv : Inv s) (hrst : s.pins.rst = false) (hs : s.vs.state = .settle) : Inv (settleStep s) := by
  obtain ⟨hdone, hnoread, hrange⟩ := flags_clear_of_busy hinv.vsFlags (by simp [hs])
  obtain ⟨hdone', hnoread', hrange'⟩ := settleStep_flags s
  exact hinv.of_sameOutsideVs (sameOutsideVs_settleStep s) hrst (vsInv_settleStep hs hinv.vs)
    (vsFlagsInv_of_clear (hdone'.trans hdone) (hnoread'.trans hnoread) (hrange'.trans hrange))

theorem Inv.divStep (hinv : Inv s) (hrst : s.pins.rst = false) (hs : s.vs.state = .div) : Inv (divStep s) :=
  hinv.of_sameOutsideVs (sameOutsideVs_divStep s) hrst (vsInv_divStep hs hinv.vs) (vsFlagsInv_divStep hs hinv.vs)

theorem Inv.afterOp {op : CcOp} (hinv : Inv s) (hrst : s.pins.rst = false) (hreq : vsRequest s.vs.state = some op)
    (hack : ccAcknowledged op s = true) : Inv (afterOp op s) :=
  hinv.of_sameOutsideVs ((sameOutsideVs_ccEnvironment op s).trans (sameOutsideVs_setVs _ _)) hrst
    (vsInv_afterOp hreq hack hinv.vs) (vsFlagsInv_afterOp hreq hinv.vsFlags)

theorem vsAfter_takeEvent (op : CcOp) (s : State) : vsAfter op (takeEvent s) = vsAfter op s := by
  simp [vsAfter]

theorem ccAcknowledged_takeEvent (op : CcOp) (s : State) : ccAcknowledged op (takeEvent s) = ccAcknowledged op s := by
  simp [ccAcknowledged]

theorem Inv.vsTurn (hinv : Inv s) (he : nextEvent s = .vs) (h : step s = .next t) : Inv t := by
  have hu := hinv.takeEvent
  obtain rfl | ⟨hrst, hs, rfl⟩ | ⟨hrst, hs, rfl⟩ | ⟨hrst, _, op, hreq, hack, _, rfl⟩ := step_vs_cases he h
  · exact hu
  · exact hu.settleStep (by rw [takeEvent_pins, hrst]) (by rw [takeEvent_vs, hs])
  · exact hu.divStep (by rw [takeEvent_pins, hrst]) (by rw [takeEvent_vs, hs])
  · rw [← vsAfter_takeEvent]
    exact hu.afterOp (by rw [takeEvent_pins, hrst]) (by rw [takeEvent_vs, hreq])
      (by rw [ccAcknowledged_takeEvent, hack])

/-! ## A turn of HR -/

theorem sinkInv_append {k : List SinkItem} {x : SinkItem} (hk : sinkInv k)
    (hx : (Instr.skPut x.eol x.data).wellFormed = true) : sinkInv (k ++ [x]) := by
  intro y hy
  rcases List.mem_append.mp hy with hold | hnew
  · exact hk y hold
  · rw [List.mem_singleton.mp hnew]
    exact hx

theorem Inv.hrTurn (hinv : Inv s) (he : nextEvent s = .hr) (h : step s = .next t) : Inv t := by
  have hu := hinv.takeEvent
  have hlow (hrst : s.pins.rst = false) : (Machine.takeEvent s).pins.rst = false := by rw [takeEvent_pins, hrst]
  obtain rfl | ⟨hrst, hs, hcount, rfl⟩ | ⟨hrst, _, hs, hcount, rfl⟩ | ⟨hrst, _, x, hx, rfl⟩ := step_hr_cases he h
  · exact hu
  · exact hu.setHr (hlow hrst) (hrInv_hrAfterBlank hs hcount hinv.hr)
  · exact hu.setHr (hlow hrst) (hrInv_hrAfterRead _ hs hcount hinv.hr)
  · exact (hu.setSink (sinkInv_append hinv.sink (hrPut_wellFormed hinv.hr hx))).setHr (hlow hrst)
      (hrInv_hrAfterPut hinv.hr hx)

/-! ## A turn of the dispatcher -/

theorem Inv.endPresentation (hinv : Inv s) : Inv (endPresentation s) := hinv.setPins id

theorem Inv.startMeasure (hinv : Inv s) (hrst : s.pins.rst = false) (hs : s.vs.state = .idle) : Inv (startMeasure s) := by
  have hclosed : s.owned = false := by
    have hvs := hinv.vs
    rwa [vsInv, hs] at hvs
  exact hinv.of_sameOutsideVs (sameOutsideVs_setVs s _) hrst ⟨hclosed, rfl, rfl⟩ (vsFlagsInv_of_clear rfl rfl rfl)

theorem Inv.startRender (hinv : Inv s) (hrst : s.pins.rst = false) (src : BitVec 1) (a c : Half) :
    Inv (startRender src a c s) := by
  refine hinv.setHr hrst ?_
  by_cases hc : c = 0#16
  · simp [hrInv, hc]
  · simp [hrInv, hc]

theorem Inv.setCmdErr (hinv : Inv s) (hrst : s.pins.rst = false) (x : Bool) : Inv (s.setCmdErr x) :=
  ⟨hinv.vs, hinv.vsFlags, hinv.hr, hinv.memory, hinv.sink, resetInv_of_rst_low hrst⟩

theorem Inv.dispatchTurn (hinv : Inv s) (he : nextEvent s = .dispatch) (h : step s = .next t) : Inv t := by
  have hu := hinv.takeEvent.endPresentation
  have hlow (hrst : s.pins.rst = false) : (Machine.endPresentation (Machine.takeEvent s)).pins.rst = false := by
    rw [endPresentation_eq, State.setPins_pins, takeEvent_pins, hrst]
  obtain rfl | ⟨hrst, _, _, hs, rfl⟩ | ⟨hrst, _, _, src, a, c, _, rfl⟩ | ⟨hrst, _, _, rfl⟩ := step_dispatch_cases he h
  · exact hinv.takeEvent
  · exact hu.startMeasure (hlow hrst) (by rw [endPresentation_eq, State.setPins_vs, takeEvent_vs, hs])
  · exact hu.startRender (hlow hrst) src a c
  · exact hu.setCmdErr (hlow hrst) true

/-! ## A move of the environment -/

/-- A reset gives the control registers the values the invariant asks for, whatever the others become (10_state R45). -/
theorem Inv.driveReset (hinv : Inv s) (level : Bool) : Inv (driveReset level s) := by
  cases level with
  | false => exact hinv.setPins fun h => absurd h Bool.false_ne_true
  | true =>
    exact ⟨trivial, vsFlagsInv_of_clear rfl rfl rfl, trivial, hinv.memory, hinv.sink,
      fun _ => ⟨rfl, rfl, rfl, rfl, rfl⟩⟩

theorem Inv.completeConversion (hinv : Inv s) (r : Half) : Inv (completeConversion r s) := by
  have hvs := vsInv_completeConversion r hinv.vs
  unfold Machine.completeConversion at hvs ⊢
  split
  · rw [if_pos ‹_›] at hvs
    exact ⟨hvs, hinv.vsFlags, hinv.hr, hinv.memory, hinv.sink, hinv.inReset⟩
  · exact hinv

/-- Another owner acts only while VS is idle, and then VS needs nothing of the converter. -/
theorem Inv.foreignMove {c : Converter} (hinv : Inv s) (h : foreignMove c s = .next t) : Inv t := by
  obtain ⟨hs, howned, rfl⟩ := foreignMove_next h
  have hvs : vsInv (s.setConv c) := by
    rw [vsInv, State.setConv_vs, hs]
    exact howned
  exact ⟨hvs, hinv.vsFlags, hinv.hr, hinv.memory, hinv.sink, hinv.inReset⟩

theorem Inv.sourceWrite (hinv : Inv s) (src : BitVec 1) (pos : Half) (b : Byte) :
    Inv (s.setSources (Memory.write s.sources (sourceAddress src pos) b)) :=
  ⟨hinv.vs, hinv.vsFlags, hinv.hr, Memory.wf_write hinv.memory (sourceAddress_lt src pos), hinv.sink, hinv.inReset⟩

theorem Inv.environmentMove {e : Event} (hinv : Inv s) (hvs : e ≠ .vs) (hhr : e ≠ .hr) (h : otherMove e s = .next t) :
    Inv t := by
  cases e with
  | vs => exact absurd rfl hvs
  | hr => exact absurd rfl hhr
  | dispatch => cases h; exact hinv
  | present _ | withdraw | ccAck _ _ | bsAck _ | skReady _ => cases h; exact hinv.setPins id
  | reset level => cases h; exact hinv.driveReset level
  | convDone r => cases h; exact hinv.completeConversion r
  | foreign c => exact hinv.foreignMove h
  | sourceWrite src pos b => cases h; exact hinv.sourceWrite src pos b

end

/-- Settles O8, by the kind of move: each clause of `Inv` is kept by the agent whose move it is, and the others do not touch it. -/
theorem everyStepKeepsTheInvariant : Obligations.EveryStepKeepsTheInvariant := by
  intro s t hinv h
  by_cases hvs : nextEvent s = .vs
  · exact hinv.vsTurn hvs h
  by_cases hhr : nextEvent s = .hr
  · exact hinv.hrTurn hhr h
  by_cases hdisp : nextEvent s = .dispatch
  · exact hinv.dispatchTurn hdisp h
  · rw [step_environment hvs hhr hdisp] at h
    exact hinv.takeEvent.environmentMove hvs hhr h

end Sys2Proof.Machine
end

section
/-!
PROOFS. The millivolt division (40_voltage_sampler R120 to R123, R128) in numbers: the quotient, its two narrowings to 16 bits and the
two flags, for every sum.
-/

namespace Sys2Proof.Machine

/-! ## The quotient and its narrowings -/

theorem toNat_quotient (acc : BitVec 32) : (quotient acc).toNat = 112640000 / acc.toNat :=
  BitVec.toNat_udiv

/-- The upper half of a word is nonzero exactly if the word does not fit the lower half. -/
theorem tooWide_iff (q : BitVec 32) : tooWide q = true ↔ 65536 ≤ q.toNat := by
  have hq := q.isLt
  rw [tooWide, bne_iff_ne, Ne, ← BitVec.toNat_inj, BitVec.extractLsb'_toNat, Nat.shiftRight_eq_div_pow]
  simp only [BitVec.toNat_ofNat]
  omega

theorem toNat_lowHalf (q : BitVec 32) : (q.extractLsb' 0 16).toNat = q.toNat % 65536 := by
  rw [BitVec.extractLsb'_toNat, Nat.shiftRight_zero]

theorem toNat_narrow_wrap (q : BitVec 32) : (narrow .wrap q).toNat = q.toNat % 65536 := toNat_lowHalf q

theorem toNat_narrow_saturate (q : BitVec 32) : (narrow .saturate q).toNat = min 65535 q.toNat := by
  rw [narrow]
  split
  · rename_i hwide
    rw [tooWide_iff] at hwide
    exact (Nat.min_eq_left (by omega)).symm
  · rename_i hfits
    rw [tooWide_iff] at hfits
    rw [toNat_lowHalf]
    omega

/-! ## The result and the flags of a sum -/

section
variable (acc : BitVec 32)

theorem toNat_eq_zero_iff : acc.toNat = 0 ↔ acc = 0#32 := BitVec.toNat_inj (y := 0#32)

theorem noReadFlag_eq_decide : noReadFlag acc = decide (acc.toNat = 0) := by
  rw [Bool.eq_iff_iff, decide_eq_true_iff, noReadFlag, beq_iff_eq, toNat_eq_zero_iff]

theorem rangeFlag_eq_decide :
    rangeFlag acc = decide (acc.toNat ≠ 0 ∧ 65536 ≤ 112640000 / acc.toNat) := by
  rw [Bool.eq_iff_iff, decide_eq_true_iff, rangeFlag, Ne, toNat_eq_zero_iff, ← toNat_quotient, ← tooWide_iff]
  split
  · simp [*]
  · simp [*]

variable {acc}

theorem resultOf_of_zero (m : Narrowing) (h : acc.toNat = 0) : resultOf m acc = 0#16 :=
  if_pos ((toNat_eq_zero_iff acc).mp h)

theorem resultOf_of_ne_zero (m : Narrowing) (h : acc.toNat ≠ 0) : resultOf m acc = narrow m (quotient acc) :=
  if_neg fun hzero => h ((toNat_eq_zero_iff acc).mpr hzero)

theorem toNat_resultOf_wrap (h : acc.toNat ≠ 0) :
    (resultOf .wrap acc).toNat = 112640000 / acc.toNat % 65536 := by
  rw [resultOf_of_ne_zero _ h, toNat_narrow_wrap, toNat_quotient]

theorem toNat_resultOf_saturate (h : acc.toNat ≠ 0) :
    (resultOf .saturate acc).toNat = min 65535 (112640000 / acc.toNat) := by
  rw [resultOf_of_ne_zero _ h, toNat_narrow_saturate, toNat_quotient]

end

/-! ## Which sums are in range -/

/-- 1718 x 65,536 is the largest multiple of 65,536 up to the dividend. -/
theorem le_quotient_iff {n : Nat} (h : n ≠ 0) : 65536 ≤ 112640000 / n ↔ n ≤ 1718 := by
  rw [Nat.le_div_iff_mul_le (Nat.pos_of_ne_zero h)]
  omega

/-- Settles O38: the flag says that the quotient is 65,536 or more. -/
theorem rangeFlagExactlyForSmallSums : Obligations.RangeFlagExactlyForSmallSums := by
  intro acc
  rw [rangeFlag_eq_decide, decide_eq_true_iff, Nat.one_le_iff_ne_zero]
  exact and_congr_right fun h => le_quotient_iff h

/-- The wrapped quotient is never zero: a multiple of 65,536 leaves at least 49,152 of the dividend as remainder, more than any divisor
with so large a quotient. -/
theorem quotient_mod_ne_zero {n : Nat} (h : n ≠ 0) (hle : n ≤ 6553500) : 112640000 / n % 65536 ≠ 0 := by
  intro hmod
  obtain ⟨k, hk⟩ := Nat.dvd_of_mod_eq_zero hmod
  have hpos : 0 < 112640000 / n := Nat.div_pos (by omega) (Nat.pos_of_ne_zero h)
  have hdivisor : n ≤ n * k := Nat.le_mul_of_pos_right n (by omega)
  have hlow : n * (112640000 / n) ≤ 112640000 := Nat.mul_div_le _ _
  have hhigh : 112640000 < n * (112640000 / n + 1) := Nat.lt_mul_div_succ _ (Nat.pos_of_ne_zero h)
  rw [hk, Nat.mul_left_comm] at hlow
  rw [hk, Nat.mul_add, Nat.mul_left_comm] at hhigh
  omega

theorem toNat_resultOf_ne_zero (m : Narrowing) {acc : BitVec 32} (h : acc.toNat ≠ 0) (hle : acc.toNat ≤ 6553500) :
    (resultOf m acc).toNat ≠ 0 := by
  have hmod := quotient_mod_ne_zero h hle
  cases m with
  | wrap => rwa [toNat_resultOf_wrap h]
  | saturate =>
    rw [toNat_resultOf_saturate h]
    omega

/-- Settles O39: the sentinel is what a zero sum gives, and no division gives it under either narrowing. -/
theorem zeroResultOnlyForZeroSum : Obligations.ZeroResultOnlyForZeroSum := by
  intro m acc hle
  rw [← toNat_eq_zero_iff]
  refine ⟨fun hresult => ?_, resultOf_of_zero m⟩
  by_contra h
  exact toNat_resultOf_ne_zero m h hle (by rw [hresult]; rfl)

theorem sum_le_of_readingInRange {readings : List Half} (h : ∀ r ∈ readings, readingInRange r) :
    (readings.map BitVec.toNat).sum ≤ readings.length * 1023 := by
  rw [← List.length_map (f := BitVec.toNat), ← smul_eq_mul]
  refine List.sum_le_card_nsmul _ _ fun n hn => ?_
  obtain ⟨r, hr, rfl⟩ := List.mem_map.mp hn
  exact BitVec.le_def.mp (h r hr)

/-- From 1719 on the quotient fits 16 bits, so both narrowings leave it as it is. -/
theorem toNat_resultOf_of_fits (m : Narrowing) {acc : BitVec 32} (h : 1719 ≤ acc.toNat) :
    (resultOf m acc).toNat = 112640000 / acc.toNat := by
  have hne : acc.toNat ≠ 0 := by omega
  have hfits : ¬ 65536 ≤ 112640000 / acc.toNat := by
    rw [le_quotient_iff hne]
    omega
  cases m with
  | wrap => rw [toNat_resultOf_wrap hne, Nat.mod_eq_of_lt (by omega)]
  | saturate => rw [toNat_resultOf_saturate hne, Nat.min_eq_right (by omega)]

/-- Settles O40: the quotient decreases with the sum, so its values at 1719 and 102,300 bound it. -/
theorem realisticSumsGiveTheQuotient : Obligations.RealisticSumsGiveTheQuotient := by
  refine ⟨fun readings hlength hrange => ?_, fun m acc hle => ⟨fun h => ⟨resultOf_of_zero m h, ?_⟩, fun hlow hhigh =>
    (rangeFlagExactlyForSmallSums acc).mpr ⟨hlow, hhigh⟩, fun hlow => ?_, fun h => ?_⟩⟩
  · have hsum := sum_le_of_readingInRange hrange
    omega
  · rw [noReadFlag_eq_decide, h]
    rfl
  · have hquotient := toNat_resultOf_of_fits m hlow
    have hsmallest : 112640000 / 102300 ≤ 112640000 / acc.toNat := Nat.div_le_div_left hle (by omega)
    have hlargest : 112640000 / acc.toNat ≤ 112640000 / 1719 := Nat.div_le_div_left hlow (by omega)
    refine ⟨hquotient, by omega, by omega, ?_, ?_, fun acc' hacc' _ => ?_⟩
    · rw [noReadFlag_eq_decide, decide_eq_false_iff_not]
      omega
    · rw [← Bool.not_eq_true, rangeFlagExactlyForSmallSums]
      omega
    · rw [hquotient, toNat_resultOf_of_fits m (hlow.trans hacc')]
      exact Nat.div_le_div_left hacc' (by omega)
  · rw [toNat_resultOf_of_fits m (by omega), h]

end Sys2Proof.Machine
end

section
/-!
PROOFS. The sampler's steps one by one (40_voltage_sampler R111 to R120, R129): an acknowledged converter operation has its whole effect at
once, a turn without an operation counts, divides or does nothing, and an idle sampler accepts `MEASURE`.
-/

namespace Sys2Proof.Machine

/-! ## An acknowledged converter operation -/

/-- Each converter operation is one transaction on the CC port, after which VS has taken the step `vsAfter` gives. -/
theorem exec_converterOp {i : Instr} {op : CcOp} (h : ccOpOf i = some op) (s : State) :
    ∃ vsNext : Half → VsRegs, exec i s = ccTransact op s vsNext ∧ vsNext (ccRdata op s) = vsAfter op s := by
  cases i with
  | enAnalog | cfgRef | trig | poll | rdRaw | disAnalog =>
    cases h
    simp only [exec, execEnAnalog, execCfgRef, execTrig, execPoll, execRdRaw, execDisAnalog]
    refine ⟨_, rfl, ?_⟩
    simp only [vsAfter, ccRdata, getLsbD_zero_append_ofBool]
  | measure | render _ _ _ | bsRead _ _ | skPut _ _ => cases h

section
variable {i : Instr} {op : CcOp} {s : State}

theorem ccPort_of_request (hrst : s.pins.rst = false) (hreq : vsRequest s.vs.state = some op) :
    ccPort s = some op.code := by
  simp [ccPort, hrst, hreq]

/-- An operation VS issues, acknowledged in a converter state its contract covers, completes. -/
theorem exec_acknowledged (hi : ccOpOf i = some op) (hrst : s.pins.rst = false) (hreq : vsRequest s.vs.state = some op)
    (hack : ccAcknowledged op s = true) (hcov : ccCovered op s.conv = true) : exec i s = .next (afterOp op s) := by
  obtain ⟨vsNext, hexec, hnext⟩ := exec_converterOp hi s
  rw [hexec, ccTransact, ccPort_of_request hrst hreq, hack, hcov, hnext]
  simp [afterOp]

/-- The converter acknowledges every operation but `EN_ANALOG` whenever `cc_ack` is 1. -/
theorem ccAcknowledged_of_ccAck (hop : op ≠ .enAnalog) (hack : s.pins.ccAck = true) : ccAcknowledged op s = true := by
  cases op with
  | enAnalog => exact absurd rfl hop
  | cfgRef | trig | poll | rdRaw | disAnalog => simp [ccAcknowledged, hack]

theorem ccAcknowledged_enAnalog (hack : s.pins.ccAck = true) (hbusy : s.conv.convBusy = false) :
    ccAcknowledged .enAnalog s = true := by
  simp [ccAcknowledged, hack, hbusy]

end

/-- Settles O16: `EN_ANALOG` is covered in every converter state, and acknowledged with no conversion in flight. -/
theorem enAnalogPowersTheSubsystem : Obligations.EnAnalogPowersTheSubsystem := by
  intro s hrst hs hack hbusy
  exact exec_acknowledged rfl hrst (by rw [hs]; rfl) (ccAcknowledged_enAnalog hack hbusy) rfl

/-- Settles O17: on a powered converter `CFG_REF` is covered. -/
theorem cfgRefLoadsTheSettleCounter : Obligations.CfgRefLoadsTheSettleCounter := by
  intro s hrst hs hack hen
  exact exec_acknowledged (op := .cfgRef) rfl hrst (by rw [hs]; rfl) (ccAcknowledged_of_ccAck nofun hack) hen

/-- Settles O18: on a powered, idle converter `TRIG` is covered. -/
theorem trigStartsAConversion : Obligations.TrigStartsAConversion := by
  intro s hrst hs hack hen hbusy
  exact exec_acknowledged (op := .trig) rfl hrst (by rw [hs]; rfl) (ccAcknowledged_of_ccAck nofun hack)
    (by simp [ccCovered, hen, hbusy])

/-- `POLL` changes nothing but `VS_STATE`, to which it gives the answer of bit 0. -/
theorem afterOp_poll (s : State) :
    afterOp .poll s = s.setVs { s.vs with state := if s.conv.convBusy then .poll else .read } := rfl

/-- Settles O19: the answer's bit 0 is `CONV_BUSY`, so VS polls again, which changes nothing, or reads. -/
theorem pollObservesCompletion : Obligations.PollObservesCompletion := by
  intro s hrst hs hack hen
  have hexec : exec .poll s = .next (afterOp .poll s) :=
    exec_acknowledged rfl hrst (by rw [hs]; rfl) (ccAcknowledged_of_ccAck nofun hack) hen
  rw [hexec, afterOp_poll]
  refine ⟨fun hbusy => ?_, fun hbusy => ?_⟩
  · rw [hbusy, if_pos rfl, ← hs]
    rfl
  · rw [hbusy, if_neg Bool.false_ne_true]

/-- Settles O20: the new sum and count are those of `vsAfter`, and below 100 samples neither addition wraps. -/
theorem rdRawAddsTheReading : Obligations.RdRawAddsTheReading := by
  intro s hrst hs hack hen hready hsamp hacc
  have hcount : (s.vs.samp + 1#7).toNat = s.vs.samp.toNat + 1 := toNat_samp_succ hsamp
  refine ⟨vsAfter .rdRaw s, ?_, toNat_add_reading _ hsamp hacc, hcount, ?_, rfl⟩
  · exact exec_acknowledged rfl hrst (by rw [hs]; rfl) (ccAcknowledged_of_ccAck nofun hack)
      (by simp [ccCovered, hen, hready])
  · rw [← hcount]
    rfl

/-- Settles O21: `DIS_ANALOG` is issued in two states and covered in every converter state. -/
theorem disAnalogReleasesTheSubsystem : Obligations.DisAnalogReleasesTheSubsystem := by
  intro s hrst hs hack
  have hreq : vsRequest s.vs.state = some .disAnalog := by rcases hs with hs | hs <;> rw [hs] <;> rfl
  have hexec : exec .disAnalog s = .next (afterOp .disAnalog s) :=
    exec_acknowledged rfl hrst hreq (ccAcknowledged_of_ccAck nofun hack) rfl
  refine ⟨Config.freeRaw s.freeIx, hexec.trans ?_⟩
  rcases hs with hs | hs <;> simp only [afterOp, ccEnvironment, vsAfter, hs] <;> rfl

/-! ## A turn of VS that carries no operation -/

theorem ccPort_of_no_request {s : State} (h : vsRequest s.vs.state = none) : ccPort s = none := by
  simp [ccPort, h]

section
variable {s : State}

/-- An idle VS has no step. -/
theorem step_vs_idle (he : nextEvent s = .vs) (hs : s.vs.state = .idle) : step s = .next (takeEvent s) := by
  rw [step_vs_silent he (ccPort_of_no_request (by rw [hs]; rfl))]
  simp [vsSilent, hs]

theorem step_vs_settle (he : nextEvent s = .vs) (hrst : s.pins.rst = false) (hs : s.vs.state = .settle) :
    step s = .next (settleStep (takeEvent s)) := by
  rw [step_vs_silent he (ccPort_of_no_request (by rw [hs]; rfl))]
  simp [vsSilent, hs, hrst]

theorem step_vs_div (he : nextEvent s = .vs) (hrst : s.pins.rst = false) (hs : s.vs.state = .div) :
    step s = .next (divStep (takeEvent s)) := by
  rw [step_vs_silent he (ccPort_of_no_request (by rw [hs]; rfl))]
  simp [vsSilent, hs, hrst]

theorem settleStep_of_pos (h : s.vs.settle ≠ 0) :
    settleStep s = (s.setConv { s.conv with refAge := s.conv.refAge + 1 }).setVs
      { s.vs with settle := s.vs.settle - 1 } :=
  if_neg h

theorem settleStep_of_zero (h : s.vs.settle = 0) :
    settleStep s = (s.setConv { s.conv with refAge := s.conv.refAge + 1 }).setVs { s.vs with state := .trig } :=
  if_pos h

end

/-- Settles O36, by the two cases of `SETTLE`. -/
theorem settleCountsDownToTrigger : Obligations.SettleCountsDownToTrigger := by
  intro s he hrst hs
  rw [step_vs_settle he hrst hs]
  refine ⟨fun h => ?_, fun h => ?_⟩
  · rw [settleStep_of_pos (by rwa [takeEvent_vs]), takeEvent_vs, takeEvent_conv]
  · rw [settleStep_of_zero (by rwa [takeEvent_vs]), takeEvent_vs, takeEvent_conv]

/-- Settles O37: `VS_DIV` writes the result and flags of the sum, whose numbers are those of the division. -/
theorem divisionGivesMillivolts : Obligations.DivisionGivesMillivolts := by
  intro s he hrst hs
  refine ⟨ccPort_of_no_request (by rw [hs]; rfl), resultOf s.params.narrowing s.vs.acc, ?_,
    resultOf_of_zero _, fun hne hwrap => ?_, fun hne hsat => ?_⟩
  · rw [step_vs_div he hrst hs, divStep_eq, takeEvent_vs, takeEvent_params, noReadFlag_eq_decide, rangeFlag_eq_decide]
  · rw [hwrap, toNat_resultOf_wrap hne]
  · rw [hsat, toNat_resultOf_saturate hne]

/-! ## Acceptance of `MEASURE` -/

theorem execMeasure_idle {s : State} (hrst : s.pins.rst = false) (hs : s.vs.state = .idle) :
    execMeasure s = .next (startMeasure (endPresentation s)) := by
  simp [execMeasure, acceptCommand, hrst, hs]

/-- Settles O10: the command is accepted, with `cmd_valid` lowered; a turn of an idle VS is silent. -/
theorem measureAcceptedByIdleSampler : Obligations.MeasureAcceptedByIdleSampler :=
  fun _ hs => ⟨fun hrst => ⟨false, execMeasure_idle hrst hs⟩, fun he => step_vs_idle he hs⟩

end Sys2Proof.Machine
end

section
/-!
PROOFS. The sampler over all steps: its state graph (40_voltage_sampler R130), the result that holds until the next `MEASURE` (R127), and the
settle wait before every trigger (R114, R124).
-/

namespace Sys2Proof.Machine

section
variable {s t : State}

/-! ## What a step can do to VS -/

/-- A move of the environment keeps the registers of VS, or is a reset and puts VS in `VS_RSTDIS`. -/
theorem otherMove_vsRegs {e : Event} (hvs : e ≠ .vs) (hhr : e ≠ .hr) (h : otherMove e s = .next t) :
    t.vs = s.vs ∨ (e = .reset true ∧ t.vs.state = .rstdis) := by
  cases e with
  | vs => exact absurd rfl hvs
  | hr => exact absurd rfl hhr
  | reset level =>
    cases h
    cases level
    · exact .inl rfl
    · exact .inr ⟨rfl, rfl⟩
  | convDone r =>
    cases h
    unfold completeConversion
    split <;> exact .inl rfl
  | foreign c =>
    obtain ⟨_, _, rfl⟩ := foreignMove_next h
    exact .inl rfl
  | dispatch | present _ | withdraw | ccAck _ _ | bsAck _ | skReady _ | sourceWrite _ _ _ =>
    cases h
    exact .inl rfl

/-- Only a reset, an accepted `MEASURE` and a turn of VS itself change the registers of VS. -/
theorem step_vsRegs_cases (h : step s = .next t) :
    t.vs = s.vs ∨ nextEvent s = .vs ∨ (nextEvent s = .reset true ∧ t.vs.state = .rstdis) ∨
    (nextEvent s = .dispatch ∧ s.vs.state = .idle ∧ t.vs.state = .enable ∧ s.pins.cmdValid = true ∧
      s.pins.cmdWord = 0x0100000000#40) := by
  by_cases hvs : nextEvent s = .vs
  · exact .inr (.inl hvs)
  by_cases hhr : nextEvent s = .hr
  · exact .inl (step_hr_sameOutsideHr hhr h).vs
  by_cases hdisp : nextEvent s = .dispatch
  · obtain rfl | ⟨_, hvalid, hmeasure, hs, rfl⟩ | ⟨_, _, _, _, _, _, _, rfl⟩ | ⟨_, _, _, rfl⟩ :=
      step_dispatch_cases hdisp h
    · exact .inl (takeEvent_vs s)
    · exact .inr (.inr (.inr ⟨hdisp, hs, rfl, hvalid, (decodeCommand_eq_measure_iff _).mp hmeasure⟩))
    · exact .inl (takeEvent_vs s)
    · exact .inl (takeEvent_vs s)
  · rw [step_environment hvs hhr hdisp] at h
    rw [← takeEvent_vs s]
    exact (otherMove_vsRegs hvs hhr h).imp_right fun hreset => .inr (.inl hreset)

/-- A turn of VS in a state that issues an operation waits for its acknowledge, or completes it. -/
theorem step_vs_request_cases {op : CcOp} (he : nextEvent s = .vs) (hrst : s.pins.rst = false)
    (hreq : vsRequest s.vs.state = some op) (h : step s = .next t) :
    (ccAcknowledged op s = false ∧ t = takeEvent s) ∨
    (ccAcknowledged op s = true ∧ t = afterOp op (takeEvent s)) := by
  obtain ⟨i, hi, hstep⟩ := step_vs_op he (ccPort_of_request hrst hreq)
  obtain ⟨vsNext, hexec, hnext⟩ := exec_converterOp hi (takeEvent s)
  rw [hstep, hexec] at h
  obtain ⟨_, hcases⟩ := ccTransact_next h
  rw [ccAcknowledged_takeEvent, hnext] at hcases
  exact hcases.imp_right fun ⟨hack, _, ht⟩ => ⟨hack, ht⟩

/-- With an acknowledge offered, VS waits only in `VS_ENABLE`, for a conversion of someone else to end (42 R181). -/
theorem wait_cases {op : CcOp} (hreq : vsRequest s.vs.state = some op) (hwait : ccAcknowledged op s = false) :
    s.pins.ccAck = false ∨ (s.vs.state = .enable ∧ s.conv.convBusy = true) := by
  cases hack : s.pins.ccAck with
  | false => exact .inl rfl
  | true =>
    right
    by_cases hop : op = .enAnalog
    · subst hop
      have hs : s.vs.state = .enable := by cases hs : s.vs.state <;> simp_all [vsRequest]
      exact ⟨hs, by simpa [ccAcknowledged, hack] using hwait⟩
    · exact absurd ((ccAcknowledged_of_ccAck hop hack).symm.trans hwait) Bool.true_eq_false_eq_False

theorem ccAck_of_ccAcknowledged {op : CcOp} (h : ccAcknowledged op s = true) : s.pins.ccAck = true := by
  simp only [ccAcknowledged, Bool.and_eq_true] at h
  exact h.1

/-! ## The state graph -/

/-- The edge of R130 that leaves the state VS is in, to `v` and under the edge's condition; `VS_IDLE` is left by `MEASURE` only. -/
def SamplerEdge (s : State) (v : VsState) : Prop :=
  match s.vs.state with
  | .rstdis => v = .idle ∧ s.pins.ccAck = true
  | .idle => False
  | .enable => v = .config ∧ s.pins.ccAck = true
  | .config => v = .settle ∧ s.pins.ccAck = true
  | .settle => v = .trig ∧ s.vs.settle = 0
  | .trig => v = .poll ∧ s.pins.ccAck = true
  | .poll => v = .read ∧ s.pins.ccAck = true ∧ s.conv.convBusy = false
  | .read => v = (if s.vs.samp + 1#7 = 100#7 then .disable else .trig) ∧ s.pins.ccAck = true
  | .disable => v = .div ∧ s.pins.ccAck = true
  | .div => v = .idle

/-- Why a turn of VS may leave VS in the state it is in: the self-loops of R130 and the waits of 42 R181 and 20 R61. -/
def SamplerStays (s : State) : Prop :=
  s.vs.state = .idle ∨ (ccPort s ≠ none ∧ s.pins.ccAck = false) ∨ (s.vs.state = .settle ∧ s.vs.settle ≠ 0) ∨
    (s.vs.state = .poll ∧ s.pins.ccAck = true ∧ s.conv.convBusy = true) ∨
    (s.vs.state = .enable ∧ s.conv.convBusy = true)

/-- No edge is a loop. -/
theorem SamplerEdge.ne {v : VsState} (h : SamplerEdge s v) : v ≠ s.vs.state := by
  rintro rfl
  unfold SamplerEdge at h
  cases hs : s.vs.state with
  | read =>
    simp only [hs] at h
    split at h <;> exact absurd h.1 nofun
  | rstdis | idle | enable | config | settle | trig | poll | disable | div => simp [hs] at h

theorem samp_full_iff (samp : BitVec 7) : (samp + 1#7).toNat = Config.nSamp ↔ samp + 1#7 = 100#7 :=
  BitVec.toNat_inj (y := 100#7)

/-- An acknowledged operation takes VS along an edge, but for `POLL` answered "in progress". -/
theorem vsAfter_edge {op : CcOp} (hreq : vsRequest s.vs.state = some op) (hack : s.pins.ccAck = true) :
    SamplerEdge s (vsAfter op s).state ∨
      ((vsAfter op s).state = s.vs.state ∧ s.vs.state = .poll ∧ s.conv.convBusy = true) := by
  unfold SamplerEdge
  cases hs : s.vs.state <;> rw [hs] at hreq <;> cases hreq
  case rstdis => exact .inl ⟨if_pos hs, hack⟩
  case enable | config | trig => exact .inl ⟨rfl, hack⟩
  case poll =>
    cases hbusy : s.conv.convBusy with
    | true => exact .inr ⟨if_pos hbusy, rfl, rfl⟩
    | false => exact .inl ⟨if_neg (by simp [hbusy]), hack, rfl⟩
  case read => exact .inl ⟨by simp only [vsAfter, samp_full_iff], hack⟩
  case disable => exact .inl ⟨if_neg (by simp [hs]), hack⟩

theorem settleStep_state (s : State) :
    (settleStep s).vs.state = if s.vs.settle = 0 then .trig else s.vs.state := by
  unfold settleStep
  split <;> rfl

/-- A turn of VS out of reset follows an edge or has a reason to stay. -/
theorem step_vs_edge_or_stays (he : nextEvent s = .vs) (hrst : s.pins.rst = false) (h : step s = .next t) :
    SamplerEdge s t.vs.state ∨ (t.vs.state = s.vs.state ∧ SamplerStays s) := by
  cases hreq : vsRequest s.vs.state with
  | some op =>
    obtain ⟨hwait, rfl⟩ | ⟨hack, rfl⟩ := step_vs_request_cases he hrst hreq h
    · refine .inr ⟨by rw [takeEvent_vs], ?_⟩
      obtain hlow | henable := wait_cases hreq hwait
      · exact .inr (.inl ⟨by simp [ccPort_of_request hrst hreq], hlow⟩)
      · exact .inr (.inr (.inr (.inr henable)))
    · have hack' := ccAck_of_ccAcknowledged hack
      rw [show (afterOp op (takeEvent s)).vs = vsAfter op s from vsAfter_takeEvent op s]
      exact (vsAfter_edge hreq hack').imp_right fun ⟨hstate, hs, hbusy⟩ =>
        ⟨hstate, .inr (.inr (.inr (.inl ⟨hs, hack', hbusy⟩)))⟩
  | none =>
    cases hs : s.vs.state with
    | rstdis | enable | config | trig | poll | read | disable => simp [hs, vsRequest] at hreq
    | idle =>
      cases (step_vs_idle he hs).symm.trans h
      exact .inr ⟨by rw [takeEvent_vs, hs], .inl hs⟩
    | settle =>
      cases (step_vs_settle he hrst hs).symm.trans h
      rw [settleStep_state, takeEvent_vs, SamplerEdge, hs]
      by_cases hzero : s.vs.settle = 0
      · exact .inl ⟨if_pos hzero, hzero⟩
      · exact .inr ⟨if_neg hzero, .inr (.inr (.inl ⟨hs, hzero⟩))⟩
    | div =>
      cases (step_vs_div he hrst hs).symm.trans h
      rw [divStep_eq, SamplerEdge, hs]
      exact .inl rfl

/-- In reset a turn of VS changes nothing. -/
theorem step_vs_inReset (he : nextEvent s = .vs) (hrst : s.pins.rst = true) : step s = .next (takeEvent s) := by
  rw [step_vs_silent he (ports_idle_in_reset hrst).1]
  simp [vsSilent, hrst]

/-- A turn of VS keeps its state or follows an edge. -/
theorem step_vs_state (he : nextEvent s = .vs) (h : step s = .next t) :
    t.vs.state = s.vs.state ∨ SamplerEdge s t.vs.state := by
  cases hrst : s.pins.rst with
  | true =>
    cases (step_vs_inReset he hrst).symm.trans h
    exact .inl (by rw [takeEvent_vs])
  | false => exact (step_vs_edge_or_stays he hrst h).symm.imp_left And.left

theorem step_reset (he : nextEvent s = .reset true) : step s = .next (driveReset true (takeEvent s)) := by
  rw [step_environment (by simp [he]) (by simp [he]) (by simp [he]), he, otherMove]

theorem step_measure (he : nextEvent s = .dispatch) (hvalid : s.pins.cmdValid = true) (hrst : s.pins.rst = false)
    (hs : s.vs.state = .idle) (hd : decodeCommand s.pins.cmdWord = .instr .measure) :
    step s = .next (startMeasure (endPresentation (takeEvent s))) := by
  have hp : fetchWord (nextEvent s) (takeEvent s) = some (.cw s.pins.cmdWord) := by simp [he, fetchWord, hvalid]
  rw [step_of_decoded hp hd]
  exact execMeasure_idle (by rw [takeEvent_pins, hrst]) (by rw [takeEvent_vs, hs])

/-- In a run the count is below 100 before each reading, so a count that is not yet full is below 100 after it too. -/
theorem samp_lt_of_more (hinv : Inv s) (hs : s.vs.state = .read) (hmore : s.vs.samp + 1#7 ≠ 100#7) :
    s.vs.samp.toNat + 1 < 100 := by
  have hvs := hinv.vs
  rw [vsInv, hs] at hvs
  obtain ⟨⟨_, hsamp, _⟩, _⟩ := hvs
  rw [Ne, ← samp_full_iff, toNat_samp_succ hsamp] at hmore
  exact lt_of_le_of_ne hsamp hmore

/-- Settles O49: only a reset, an accepted `MEASURE` and a turn of VS change VS, and a turn follows `SamplerEdge` or stays. -/
theorem samplerFollowsItsStateGraph : Obligations.SamplerFollowsItsStateGraph := by
  intro s t h
  refine ⟨?_, fun he => ?_, fun he hvalid hrst hs hd => ?_, fun he hrst hsame => ?_⟩
  · obtain hkeep | he | hreset | ⟨he, hs, ht, hvalid, hword⟩ := step_vsRegs_cases h
    · exact .inl (by rw [hkeep])
    · obtain hsame | hedge := step_vs_state he h
      · exact .inl hsame
      unfold SamplerEdge at hedge
      cases hs : s.vs.state with
      | read =>
        simp only [hs] at hedge
        obtain ⟨ht, hack⟩ := hedge
        split at ht
        · simp [*]
        · rename_i hmore
          simpa [*] using fun hinv => samp_lt_of_more hinv hs hmore
      | idle => simp only [hs] at hedge
      | rstdis | enable | config | settle | trig | poll | disable | div =>
        simp only [hs] at hedge
        simp [hedge]
    · exact .inr (.inl hreset)
    · simp [he, hs, ht, hvalid, hword]
  · cases (step_reset he).symm.trans h
    rfl
  · cases (step_measure he hvalid hrst hs hd).symm.trans h
    rfl
  · obtain hedge | ⟨_, hstays⟩ := step_vs_edge_or_stays he hrst h
    · exact absurd hsame hedge.ne
    · exact hstays

end

/-! ## The result holds -/

/-- Settles O52: with `VS_DONE` = 1 VS is idle, and an idle VS has no step of its own. -/
theorem resultHoldsUntilNextMeasure : Obligations.ResultHoldsUntilNextMeasure := by
  intro s t hinv hdone h
  have hidle : s.vs.state = .idle := (hinv.vsFlags.1 hdone).1
  obtain hkeep | he | ⟨he, _⟩ | ⟨he, _, ht, hvalid, hword⟩ := step_vsRegs_cases h
  · exact .inl hkeep
  · cases (step_vs_idle he hidle).symm.trans h
    exact .inl (takeEvent_vs s)
  · exact .inr (.inl he)
  · exact .inr (.inr ⟨he, hvalid, hword, ht⟩)

/-! ## The settle wait -/

/-- `TRIG` has a code of its own, and VS drives it in `VS_TRIG` only. -/
theorem state_trig_of_ccPort {s : State} (h : ccPort s = some CcOp.trig.code) : s.vs.state = .trig := by
  unfold ccPort at h
  split at h
  · cases h
  · cases hs : s.vs.state with
    | trig => rfl
    | rstdis | idle | enable | config | settle | poll | read | disable | div =>
      rw [hs] at h
      exact absurd h (by decide)

/-- The reference value is at least 100 us for every clock (00_scope R6). -/
theorem settleTimeOk_reference (f : Nat) :
    settleTimeOk { narrowing := .wrap, fClkHz := f, settleCycles := Config.referenceSettleCycles f } := by
  simp only [settleTimeOk, Config.referenceSettleCycles]
  omega

/-- Settles O53: VS drives `TRIG` in `VS_TRIG` only, where the invariant has the age of the reference past `SETTLE_CYCLES`. -/
theorem settleWaitBeforeEveryTrigger : Obligations.SettleWaitBeforeEveryTrigger := by
  refine ⟨fun s hinv hport => ?_, settleTimeOk_reference⟩
  have hvs := hinv.vs
  rw [vsInv, state_trig_of_ccPort hport] at hvs
  obtain ⟨⟨_, _, _, hpast⟩, _⟩ := hvs
  refine ⟨hpast.le, fun hduty => ?_⟩
  rw [settleTimeOk] at hduty
  omega

end Sys2Proof.Machine
end

section
/-!
PROOFS. A whole measurement (40_voltage_sampler R110, R124): the moves of `measureScript` taken one phase after the other, from acceptance
through the settle wait and the 100 conversions to the division.
-/

namespace Sys2Proof.Machine

/-! ## Runs of a list of moves -/

/-- `k` steps of the core, as a result of this machine. -/
def runFor (k : Nat) (s : State) : Result := Host.Core.run core k s

theorem runFor_zero (s : State) : runFor 0 s = .next s := rfl

theorem runFor_succ (k : Nat) (s : State) : runFor (k + 1) s = andThen (step s) (runFor k) := by
  change Host.Core.run core (k + 1) s = andThen (core.step s) (Host.Core.run core k)
  simp only [Host.Core.run]
  cases core.step s <;> rfl

theorem andThen_assoc (r : Result) (f g : State → Result) :
    andThen (andThen r f) g = andThen r fun s => andThen (f s) g := by
  cases r <;> rfl

theorem runFor_add (j k : Nat) (s : State) : runFor (j + k) s = andThen (runFor j s) (runFor k) := by
  induction j generalizing s with
  | zero => rw [Nat.zero_add, runFor_zero, andThen_next]
  | succ j ih =>
    rw [Nat.add_right_comm, runFor_succ, runFor_succ, andThen_assoc]
    exact andThen_congr fun t _ => ih t

/-- The moves take `s` to `t`, whatever the script holds after them. -/
def RunsTo (moves : List Event) (s t : State) : Prop :=
  ∀ rest, runFor moves.length (s.setScript (moves ++ rest)) = .next (t.setScript rest)

section
variable {s t u : State}

theorem RunsTo.nil (s : State) : RunsTo [] s s := fun _ => rfl

theorem RunsTo.single {e : Event} (h : ∀ rest, step (s.setScript (e :: rest)) = .next (t.setScript rest)) :
    RunsTo [e] s t := by
  intro rest
  rw [List.length_singleton, List.singleton_append, runFor_succ, h, andThen_next, runFor_zero]

theorem RunsTo.append {moves moves' : List Event} (h : RunsTo moves s t) (h' : RunsTo moves' t u) :
    RunsTo (moves ++ moves') s u := by
  intro rest
  rw [List.length_append, runFor_add, List.append_assoc, h, andThen_next]
  exact h' rest

theorem RunsTo.cons {e : Event} {moves : List Event} (h : RunsTo [e] s t) (h' : RunsTo moves t u) :
    RunsTo (e :: moves) s u :=
  h.append h'

/-! ## The moves of a measurement, one by one -/

theorem runsTo_accept (hrst : s.pins.rst = false) (hs : s.vs.state = .idle) (hvalid : s.pins.cmdValid = true)
    (hword : s.pins.cmdWord = 0x0100000000#40) : RunsTo [.dispatch] s (startMeasure (endPresentation s)) :=
  .single fun _ => step_measure rfl hvalid hrst hs ((decodeCommand_eq_measure_iff _).mpr hword)

theorem runsTo_op {op : CcOp} (hrst : s.pins.rst = false) (hreq : vsRequest s.vs.state = some op)
    (hack : ccAcknowledged op s = true) (hcov : ccCovered op s.conv = true) : RunsTo [.vs] s (afterOp op s) := by
  refine .single fun rest => ?_
  obtain ⟨i, hi, hstep⟩ := step_vs_op (s := s.setScript (.vs :: rest)) rfl (ccPort_of_request hrst hreq)
  rw [hstep]
  exact exec_acknowledged (s := s.setScript rest) hi hrst hreq hack hcov

theorem settleStep_setScript (s : State) (rest : List Event) :
    settleStep (s.setScript rest) = (settleStep s).setScript rest := by
  unfold settleStep
  rw [State.setScript_vs]
  split <;> rfl

theorem runsTo_settleStep (hrst : s.pins.rst = false) (hs : s.vs.state = .settle) :
    RunsTo [.vs] s (settleStep s) := by
  refine .single fun rest => ?_
  rw [step_vs_settle (s := s.setScript (.vs :: rest)) rfl hrst hs, takeEvent_setScript_cons, settleStep_setScript]

theorem runsTo_divStep (hrst : s.pins.rst = false) (hs : s.vs.state = .div) : RunsTo [.vs] s (divStep s) := by
  refine .single fun rest => ?_
  rw [step_vs_div (s := s.setScript (.vs :: rest)) rfl hrst hs, takeEvent_setScript_cons, divStep_eq, divStep_eq]
  rfl

theorem completeConversion_setScript (r : Half) (s : State) (rest : List Event) :
    completeConversion r (s.setScript rest) = (completeConversion r s).setScript rest := by
  unfold completeConversion
  rw [State.setScript_conv]
  split <;> rfl

theorem runsTo_convDone (r : Half) (s : State) : RunsTo [.convDone r] s (completeConversion r s) := by
  refine .single fun rest => ?_
  rw [step_environment (by simp) (by simp) (by simp), nextEvent_setScript_cons, takeEvent_setScript_cons, otherMove,
    completeConversion_setScript]

/-! ## The settle wait -/

/-- The end of the settle wait, `SETTLE` + 1 periods on (R114). -/
def settled (s : State) : State :=
  (s.setConv { s.conv with refAge := s.conv.refAge + (s.vs.settle + 1) }).setVs
    { s.vs with settle := 0, state := .trig }

theorem settleStep_eq_settled (h : s.vs.settle = 0) : settleStep s = settled s := by
  simp [settleStep_of_zero h, settled, h]

theorem settled_settleStep (h : s.vs.settle ≠ 0) : settled (settleStep s) = settled s := by
  have hage : s.conv.refAge + 1 + (s.vs.settle - 1 + 1) = s.conv.refAge + (s.vs.settle + 1) := by omega
  rw [settleStep_of_pos h]
  simp only [settled, State.setVs_vs, State.setVs_conv, State.setConv_conv, hage]
  rfl

theorem runsTo_settled {n : Nat} (hrst : s.pins.rst = false) (hs : s.vs.state = .settle) (hn : s.vs.settle = n) :
    RunsTo (List.replicate (n + 1) .vs) s (settled s) := by
  induction n generalizing s with
  | zero =>
    rw [← settleStep_eq_settled hn]
    exact runsTo_settleStep hrst hs
  | succ n ih =>
    have hpos : s.vs.settle ≠ 0 := by omega
    have hstep := settleStep_of_pos hpos
    rw [List.replicate_succ, ← settled_settleStep hpos]
    refine (runsTo_settleStep hrst hs).cons (ih ?_ ?_ ?_) <;> rw [hstep]
    · exact hrst
    · exact hs
    · simp [hn]

/-! ## One conversion -/

/-- The end of one turn of the sample loop, with reading `r` (R115 to R118). -/
def afterConversion (r : Half) (s : State) : State :=
  (s.setConv { s.conv with convBusy := false, raw := r, rawReady := true }).setVs { s.vs with
    acc := s.vs.acc + r.setWidth 32, samp := s.vs.samp + 1#7
    state := if (s.vs.samp + 1#7).toNat = Config.nSamp then .disable else .trig }

/-- While the conversion is in flight VS polls in place. -/
theorem runsTo_polls (k : Nat) (hrst : s.pins.rst = false) (hack : s.pins.ccAck = true) (hs : s.vs.state = .poll)
    (hen : s.conv.anEn = true) (hbusy : s.conv.convBusy = true) : RunsTo (List.replicate k .vs) s s := by
  have hpoll : RunsTo [.vs] s s := by
    have hloop := runsTo_op hrst (by rw [hs]; rfl) (ccAcknowledged_of_ccAck (op := .poll) nofun hack) hen
    rwa [afterOp_poll, hbusy, if_pos rfl, ← hs] at hloop
  induction k with
  | zero => exact .nil s
  | succ k ih => exact hpoll.cons ih

theorem runsTo_afterConversion (c : Nat × Half) (hrst : s.pins.rst = false) (hack : s.pins.ccAck = true)
    (hs : s.vs.state = .trig) (hen : s.conv.anEn = true) (hbusy : s.conv.convBusy = false) :
    RunsTo (conversionMoves c) s (afterConversion c.2 s) := by
  have htrig : RunsTo [.vs] s (afterOp .trig s) :=
    runsTo_op hrst (by rw [hs]; rfl) (ccAcknowledged_of_ccAck nofun hack) (by simp [ccCovered, hen, hbusy])
  have hpolls : RunsTo (List.replicate c.1 .vs) (afterOp .trig s) (afterOp .trig s) :=
    runsTo_polls c.1 hrst hack rfl hen rfl
  have hdone := runsTo_convDone c.2 (afterOp .trig s)
  have hpoll := runsTo_op (op := .poll) (s := completeConversion c.2 (afterOp .trig s)) hrst rfl
    (ccAcknowledged_of_ccAck nofun hack) hen
  have hread := runsTo_op (op := .rdRaw) (s := afterOp .poll (completeConversion c.2 (afterOp .trig s))) hrst rfl
    (ccAcknowledged_of_ccAck nofun hack) (Bool.and_eq_true_iff.mpr ⟨hen, rfl⟩)
  exact htrig.cons (hpolls.append (hdone.cons (hpoll.cons hread)))

/-! ## The conversions of a measurement -/

/-- Between two conversions: `n` readings added with sum `sum`, the converter powered, idle and answering. -/
structure Collected (n sum : Nat) (s : State) : Prop where
  rst : s.pins.rst = false
  ccAck : s.pins.ccAck = true
  anEn : s.conv.anEn = true
  convBusy : s.conv.convBusy = false
  samp : s.vs.samp.toNat = n
  acc : s.vs.acc.toNat = sum
  bound : sum ≤ n * 65535
  state : s.vs.state = if n = Config.nSamp then .disable else .trig

theorem Collected.afterConversion {n sum : Nat} (h : Collected n sum s) (hn : n < Config.nSamp) (r : Half) :
    Collected (n + 1) (sum + r.toNat) (afterConversion r s) where
  rst := h.rst
  ccAck := h.ccAck
  anEn := h.anEn
  convBusy := rfl
  samp := by
    rw [← h.samp]
    exact toNat_samp_succ (by rw [h.samp]; exact hn)
  acc := by
    rw [← h.acc]
    exact toNat_add_reading r hn (by rw [h.acc]; exact h.bound)
  bound := by
    have hr := r.isLt
    have hsum := h.bound
    omega
  state := by
    rw [← h.samp, ← toNat_samp_succ (by rw [h.samp]; exact hn)]
    rfl

theorem sameOutsideVs_afterConversion (r : Half) (s : State) : SameOutsideVs s (afterConversion r s) := by
  constructor <;> rfl

theorem SameOutsideVs.refl (s : State) : SameOutsideVs s s := by
  constructor <;> rfl

theorem readingSum_cons (c : Nat × Half) (cs : List (Nat × Half)) :
    readingSum (c :: cs) = c.2.toNat + readingSum cs := by
  simp [readingSum]

/-- Up to 100 conversions, one after the other, add up their readings. -/
theorem runsTo_collected (conversions : List (Nat × Half)) {n sum : Nat} (h : Collected n sum s)
    (hn : n + conversions.length ≤ Config.nSamp) :
    ∃ t, RunsTo (conversions.flatMap conversionMoves) s t ∧
      Collected (n + conversions.length) (sum + readingSum conversions) t ∧ SameOutsideVs s t := by
  induction conversions generalizing s n sum with
  | nil => exact ⟨s, .nil s, h, .refl s⟩
  | cons c cs ih =>
    rw [List.length_cons] at hn
    have hmore : n < Config.nSamp := by omega
    have htrig : s.vs.state = .trig := h.state.trans (if_neg hmore.ne)
    obtain ⟨t, hrun, ht, hsame⟩ := ih (h.afterConversion hmore c.2) (by omega)
    refine ⟨t, ?_, ?_, (sameOutsideVs_afterConversion c.2 s).trans hsame⟩
    · exact (runsTo_afterConversion c h.rst h.ccAck htrig h.anEn h.convBusy).append hrun
    · rw [readingSum_cons, List.length_cons, Nat.add_comm cs.length, ← Nat.add_assoc, ← Nat.add_assoc]
      exact ht

/-! ## The start and the end of a measurement -/

/-- VS at its first trigger: the subsystem powered and configured, the settle wait over. -/
def readyToSample (s : State) : State := settled (afterOp .cfgRef (afterOp .enAnalog (startMeasure s)))

theorem runsTo_readyToSample (hrst : s.pins.rst = false) (hack : s.pins.ccAck = true) (hbusy : s.conv.convBusy = false) :
    RunsTo (.vs :: .vs :: List.replicate (s.params.settleCycles + 1) .vs) (startMeasure s) (readyToSample s) := by
  have hen : RunsTo [.vs] (startMeasure s) (afterOp .enAnalog (startMeasure s)) :=
    runsTo_op hrst rfl (ccAcknowledged_enAnalog hack hbusy) rfl
  have hcfg : RunsTo [.vs] _ (afterOp .cfgRef (afterOp .enAnalog (startMeasure s))) :=
    runsTo_op hrst rfl (ccAcknowledged_of_ccAck nofun hack) rfl
  exact hen.cons (hcfg.cons (runsTo_settled hrst rfl rfl))

theorem collected_readyToSample (hrst : s.pins.rst = false) (hack : s.pins.ccAck = true)
    (hbusy : s.conv.convBusy = false) : Collected 0 0 (readyToSample s) :=
  ⟨hrst, hack, rfl, hbusy, rfl, rfl, Nat.zero_le _, rfl⟩

theorem sameOutsideVs_readyToSample (s : State) : SameOutsideVs s (readyToSample s) := by
  constructor <;> rfl

/-- VS after the last reading: the subsystem released and the result computed (R119, R120). -/
def releasedAndDivided (s : State) : State := divStep (afterOp .disAnalog s)

theorem runsTo_releasedAndDivided (hrst : s.pins.rst = false) (hack : s.pins.ccAck = true) (hs : s.vs.state = .disable) :
    RunsTo [.vs, .vs] s (releasedAndDivided s) := by
  have hdis : RunsTo [.vs] s (afterOp .disAnalog s) :=
    runsTo_op hrst (by rw [hs]; rfl) (ccAcknowledged_of_ccAck nofun hack) rfl
  exact hdis.cons (runsTo_divStep hrst (if_neg (by simp [hs])))

theorem releasedAndDivided_vs (s : State) :
    (releasedAndDivided s).vs = { s.vs with
      state := .idle, result := resultOf s.params.narrowing s.vs.acc, done := true
      noread := noReadFlag s.vs.acc, range := rangeFlag s.vs.acc } := by
  rw [releasedAndDivided, divStep_eq]
  rfl

theorem releasedAndDivided_conv (s : State) :
    (releasedAndDivided s).conv = ccEffect .disAnalog (Config.freeRaw s.freeIx) s.conv := by
  rw [releasedAndDivided, divStep_eq]
  rfl

theorem releasedAndDivided_owned (s : State) : (releasedAndDivided s).owned = false := by
  rw [releasedAndDivided, divStep_eq]
  rfl

theorem sameOutsideVs_releasedAndDivided (s : State) : SameOutsideVs s (releasedAndDivided s) :=
  ((sameOutsideVs_ccEnvironment .disAnalog s).trans (sameOutsideVs_setVs _ _)).trans (sameOutsideVs_divStep _)

/-- The moves of a measurement end with the division of the sum of all readings. -/
theorem runsTo_measured {conversions : List (Nat × Half)} (hlength : conversions.length = Config.nSamp)
    (hrst : s.pins.rst = false) (hack : s.pins.ccAck = true) (hs : s.vs.state = .idle)
    (hbusy : s.conv.convBusy = false) (hvalid : s.pins.cmdValid = true) (hword : s.pins.cmdWord = 0x0100000000#40) :
    ∃ t, RunsTo (measureScript s.params.settleCycles conversions) s (releasedAndDivided t) ∧
      Collected Config.nSamp (readingSum conversions) t ∧ SameOutsideVs (endPresentation s) t := by
  have haccept := runsTo_accept hrst hs hvalid hword
  have hstart := runsTo_readyToSample (s := endPresentation s) hrst hack hbusy
  obtain ⟨t, hsample, ht, hsame⟩ := runsTo_collected conversions
    (collected_readyToSample (s := endPresentation s) hrst hack hbusy) (by rw [hlength, Nat.zero_add])
  rw [hlength, Nat.zero_add, Nat.zero_add] at ht
  have hend := runsTo_releasedAndDivided ht.rst ht.ccAck (ht.state.trans (if_pos rfl))
  exact ⟨t, haccept.cons ((hstart.append hsample).append hend), ht, (sameOutsideVs_readyToSample _).trans hsame⟩

end

/-- Settles O58: the phases of `runsTo_measured` end in the division of the exact sum, with the subsystem released. -/
theorem measureComputesTheSupply : Obligations.MeasureComputesTheSupply := by
  intro s conversions rest hlength hrst hack hs hbusy hvalid hword hscript
  obtain ⟨t, hrun, ht, hbefore⟩ := runsTo_measured hlength hrst hack hs hbusy hvalid hword
  have hsame := hbefore.trans (sameOutsideVs_releasedAndDivided t)
  have hvs := releasedAndDivided_vs t
  have hconv := releasedAndDivided_conv t
  have hnarrowing : t.params.narrowing = s.params.narrowing := by rw [hbefore.params]; rfl
  have hsum : t.vs.acc.toNat = readingSum conversions := ht.acc
  refine ⟨(releasedAndDivided t).setScript rest, ?_, ?_, ?_, ?_, ?_, ?_, ?_, fun hzero => ?_, fun hne hwrap => ?_,
    fun hne hsat => ?_, ?_, ?_, ?_, releasedAndDivided_owned t, hsame.hr, hsame.sources, hsame.sink, hsame.cmdErr,
    hsame.params, rfl⟩
  · have hs' : s.setScript (measureScript s.params.settleCycles conversions ++ rest) = s := by rw [← hscript]; rfl
    have hrun' := hrun rest
    rwa [hs'] at hrun'
  all_goals simp only [State.setScript_vs, State.setScript_conv, hvs, hconv, hnarrowing]
  · exact ht.samp
  · exact hsum
  · rw [noReadFlag_eq_decide, hsum]
  · rw [rangeFlag_eq_decide, hsum]
  · exact resultOf_of_zero _ (hsum.trans hzero)
  · rw [hwrap, toNat_resultOf_wrap (by rwa [hsum]), hsum]
  · rw [hsat, toNat_resultOf_saturate (by rwa [hsum]), hsum]
  · rfl
  · rfl
  · rfl

end Sys2Proof.Machine
end

section
/-!
PROOFS. The steps of HR, one by one (41_hex_renderer R141 to R152): acceptance of `RENDER`, the blank arm, and the put of each state with the
sink ready.
-/

namespace Sys2Proof.Machine

/-! ## Acceptance of `RENDER` -/

theorem execRender_idle {s : State} (hrst : s.pins.rst = false) (hs : s.hr.state = .idle) (src : BitVec 1) (a c : Half) :
    execRender src a c s = .next (startRender src a c (endPresentation s)) := by
  simp [execRender, acceptCommand, hrst, hs]

/-- A render with bytes goes to its first row, one without is complete (R141, R142). -/
theorem startRender_eq (src : BitVec 1) (a c : Half) (s : State) :
    startRender src a c s = s.setHr
      (if c = 0#16 then { s.hr with src := src, addr := a, count := c, idx := 0#4, done := true, state := .idle }
       else { s.hr with src := src, addr := a, count := c, idx := 0#4, done := false, state := .addr }) := by
  by_cases hc : c = 0#16
  · simp [startRender, hc]
  · simp [startRender, hc, beq_false_of_ne hc]

/-- An idle HR has no step. -/
theorem step_hr_idle {s : State} (he : nextEvent s = .hr) (hs : s.hr.state = .idle) : step s = .next (takeEvent s) := by
  rw [step_hr_silent he (.inr (.inl hs))]
  simp [hrSilent, hs]

/-- Settles O11: acceptance lowers `cmd_valid` and starts the render; a turn of an idle HR is silent. -/
theorem renderAcceptedByIdleRenderer : Obligations.RenderAcceptedByIdleRenderer := by
  intro s hs
  refine ⟨fun hrst src a c => ⟨false, ?_⟩, fun he => step_hr_idle he hs⟩
  rw [exec, execRender_idle hrst hs, startRender_eq]
  rfl

/-! ## The blank arm of `HR_SLOT` -/

theorem step_hr_blankArm {s : State} (he : nextEvent s = .hr) (hrst : s.pins.rst = false) (hs : s.hr.state = .slot)
    (hcount : s.hr.count = 0#16) : step s = .next ((takeEvent s).setHr (hrAfterBlank s.hr)) := by
  rw [step_hr_silent he (.inr (.inr ⟨hs, hcount⟩))]
  simp [hrSilent, hrst, hs, hcount]

/-- Settles O35: with `COUNT` = 0 the slot asks for nothing, and its turn is the blank arm. -/
theorem blankSlotIssuesNoRead : Obligations.BlankSlotIssuesNoRead := by
  intro s he hrst hs hcount
  exact ⟨by simp [bsPort, hcount], by simp [skPort, hrPut, hs], step_hr_blankArm he hrst hs hcount⟩

/-! ## A put with the sink ready -/

section
variable {h : HrRegs}

/-- The registers at the end of a slot's field (R147, R148). -/
def endSlot (h : HrRegs) : HrRegs :=
  { h with idx := 0#4, col := h.col + 1#5, state := if h.col + 1#5 = 16#5 then .sep else .slot }

theorem hrAfterAddr_eq (hidx : h.idx.toNat ≤ 4) :
    hrAfterAddr h = if h.idx = 4#4 then { h with idx := 0#4, col := 0#5, tlen := 0#5, state := .slot }
      else { h with idx := h.idx + 1#4 } := by
  by_cases hlast : h.idx = 4#4
  · simp [hrAfterAddr, hlast]
  · have hlt : h.idx < 4#4 := by bv_omega
    rw [hrAfterAddr, if_pos hlt, if_neg hlast]

theorem hrAfterSlotChar_eq (hidx : h.idx.toNat ≤ 2) :
    hrAfterSlotChar h = if h.idx = 2#4 then endSlot h else { h with idx := h.idx + 1#4 } := by
  by_cases hlast : h.idx = 2#4
  · rw [hrAfterSlotChar, if_neg (by simp [hlast]), if_pos hlast]
    rfl
  · have hlt : h.idx < 2#4 := by bv_omega
    rw [hrAfterSlotChar, if_pos hlt, if_neg hlast]

/-- `IDX` + 1 is at most 16, so the 5-bit comparison of R150 is one of numbers. -/
theorem tail_last_iff (h : HrRegs) : h.idx.setWidth 5 + 1#5 = h.tlen ↔ h.idx.toNat + 1 = h.tlen.toNat := by
  bv_omega

theorem hrAfterTail_eq (h : HrRegs) :
    hrAfterTail h = if h.idx.toNat + 1 = h.tlen.toNat then { h with state := .cr }
      else { h with idx := h.idx + 1#4 } := by
  simp only [hrAfterTail, tail_last_iff]

theorem hrPut_addr (hs : h.state = .addr) : hrPut h = some ⟨false, addrChar h⟩ := by
  simp only [hrPut, hs]

theorem hrPut_hex (hs : h.state = .hex) : hrPut h = some ⟨false, hexChar h⟩ := by
  simp only [hrPut, hs]

theorem hrPut_pad (hs : h.state = .pad) : hrPut h = some ⟨false, space⟩ := by
  simp only [hrPut, hs]

theorem hrPut_sep (hs : h.state = .sep) : hrPut h = some ⟨false, space⟩ := by
  simp only [hrPut, hs]

theorem hrPut_tail (hs : h.state = .tail) : hrPut h = some ⟨false, tailChar h⟩ := by
  simp only [hrPut, hs]

theorem hrPut_cr (hs : h.state = .cr) : hrPut h = some ⟨false, carriageReturn⟩ := by
  simp only [hrPut, hs]

theorem hrPut_lf (hs : h.state = .lf) : hrPut h = some ⟨true, lineFeed⟩ := by
  simp only [hrPut, hs]

theorem hrAfterPut_addr (hs : h.state = .addr) : hrAfterPut h = hrAfterAddr h := by
  simp only [hrAfterPut, hs]

theorem hrAfterPut_slotField (hs : h.state = .hex ∨ h.state = .pad) : hrAfterPut h = hrAfterSlotChar h := by
  rcases hs with hs | hs <;> simp only [hrAfterPut, hs]

theorem hrAfterPut_sep (hs : h.state = .sep) : hrAfterPut h = { h with idx := 0#4, state := .tail } := by
  simp only [hrAfterPut, hs]

theorem hrAfterPut_tail (hs : h.state = .tail) : hrAfterPut h = hrAfterTail h := by
  simp only [hrAfterPut, hs]

theorem hrAfterPut_cr (hs : h.state = .cr) : hrAfterPut h = { h with state := .lf } := by
  simp only [hrAfterPut, hs]

theorem hrAfterPut_lf (hs : h.state = .lf) : hrAfterPut h = hrAfterLf h := by
  simp only [hrAfterPut, hs]

theorem addrChar_digit (h : HrRegs) {k : BitVec 4} (hk : k < 4#4) (hidx : h.idx = k) :
    addrChar h = addressDigit h.addr k.toNat := by
  rw [addrChar, hidx, if_pos hk]

theorem addrChar_space (hidx : h.idx = 4#4) : addrChar h = space := by
  simp [addrChar, hidx]

theorem hexChar_high (hidx : h.idx = 0#4) : hexChar h = highDigit h.cur := by
  simp [hexChar, hidx]

theorem hexChar_low (hidx : h.idx = 1#4) : hexChar h = lowDigit h.cur := by
  simp [hexChar, hidx]

theorem hexChar_space (hidx : h.idx = 2#4) : hexChar h = space := by
  simp [hexChar, hidx]

end

section
variable {s : State} {eol : Bool} {b : Byte}

theorem skPort_of_hrPut (hrst : s.pins.rst = false) (hx : hrPut s.hr = some ⟨eol, b⟩) :
    skPort s = some (skWord eol b) := by
  simp [skPort, hrst, hx]

/-- What HR puts is taken by a ready sink, and HR takes its step. -/
theorem exec_skPut_taken (hrst : s.pins.rst = false) (hready : s.pins.skReady = true)
    (hx : hrPut s.hr = some ⟨eol, b⟩) :
    exec (.skPut eol b) s = .next ((s.setSink (s.sink ++ [⟨eol, b⟩])).setHr (hrAfterPut s.hr)) :=
  skTransact_taken _ (skPort_of_hrPut hrst hx) hready

end

/-- Settles O29, by the value of `IDX`: each selects one character of the address field. -/
theorem skPutEmitsTheAddressField : Obligations.SkPutEmitsTheAddressField := by
  intro s b hrst hready hs hchar
  have hput : addrChar s.hr = b ∧ s.hr.idx.toNat ≤ 4 := by
    rcases hchar with ⟨hidx, rfl⟩ | ⟨hidx, rfl⟩ | ⟨hidx, rfl⟩ | ⟨hidx, rfl⟩ | ⟨hidx, rfl⟩
    · exact ⟨addrChar_digit _ (by decide) hidx, by simp [hidx]⟩
    · exact ⟨addrChar_digit _ (by decide) hidx, by simp [hidx]⟩
    · exact ⟨addrChar_digit _ (by decide) hidx, by simp [hidx]⟩
    · exact ⟨addrChar_digit _ (by decide) hidx, by simp [hidx]⟩
    · exact ⟨addrChar_space hidx, by simp [hidx]⟩
  obtain ⟨rfl, hidx⟩ := hput
  have hx := hrPut_addr hs
  refine ⟨skPort_of_hrPut hrst hx, ?_⟩
  rw [exec_skPut_taken hrst hready hx, hrAfterPut_addr hs, hrAfterAddr_eq hidx]

/-- Settles O30, by the kind of field and the value of `IDX`. -/
theorem skPutEmitsTheSlotFields : Obligations.SkPutEmitsTheSlotFields := by
  intro s b hrst hready hidx hchar
  have hput : hrPut s.hr = some ⟨false, b⟩ ∧ (s.hr.state = .hex ∨ s.hr.state = .pad) := by
    rcases hchar with ⟨hs, hdigit⟩ | ⟨hs, rfl⟩
    · refine ⟨?_, .inl hs⟩
      rw [hrPut_hex hs]
      rcases hdigit with ⟨hk, rfl⟩ | ⟨hk, rfl⟩ | ⟨hk, rfl⟩
      · rw [hexChar_high hk, highDigit]
      · rw [hexChar_low hk, lowDigit]
      · rw [hexChar_space hk, space]
    · exact ⟨hrPut_pad hs, .inr hs⟩
  obtain ⟨hx, hs⟩ := hput
  refine ⟨skPort_of_hrPut hrst hx, ?_⟩
  rw [exec_skPut_taken hrst hready hx, hrAfterPut_slotField hs, hrAfterSlotChar_eq hidx]
  rfl

/-- Settles O31, state by state; before the separator the invariant has a byte consumed. -/
theorem skPutEmitsTailAndTerminator : Obligations.SkPutEmitsTailAndTerminator := by
  intro s hrst hready
  refine ⟨fun hs => ⟨fun hinv => ?_, ?_⟩, fun hs => ?_, fun hs => ?_, fun hs => ?_⟩
  · have hhr := hinv.hr
    rw [hrInv, hs] at hhr
    obtain ⟨_, hlow, _⟩ := hhr
    exact hlow
  · exact (exec_skPut_taken hrst hready (hrPut_sep hs)).trans (by rw [hrAfterPut_sep hs]; rfl)
  · exact (exec_skPut_taken hrst hready (hrPut_tail hs)).trans (by rw [hrAfterPut_tail hs, hrAfterTail_eq]; rfl)
  · exact (exec_skPut_taken hrst hready (hrPut_cr hs)).trans (by rw [hrAfterPut_cr hs]; rfl)
  · exact (exec_skPut_taken hrst hready (hrPut_lf hs)).trans (by rw [hrAfterPut_lf hs]; rfl)

end Sys2Proof.Machine
end

section
/-!
PROOFS. The renderer over all steps: its state graph (41_hex_renderer R159).
-/

namespace Sys2Proof.Machine

section
variable {s t : State}

/-! ## What a step can do to HR -/

/-- A move of the environment keeps the registers of HR, or is a reset and puts HR in `HR_IDLE`. -/
theorem otherMove_hrRegs {e : Event} (hvs : e ≠ .vs) (hhr : e ≠ .hr) (h : otherMove e s = .next t) :
    t.hr = s.hr ∨ (e = .reset true ∧ t.hr.state = .idle) := by
  cases e with
  | vs => exact absurd rfl hvs
  | hr => exact absurd rfl hhr
  | reset level =>
    cases h
    cases level
    · exact .inl rfl
    · exact .inr ⟨rfl, rfl⟩
  | convDone r =>
    cases h
    unfold completeConversion
    split <;> exact .inl rfl
  | foreign c =>
    obtain ⟨_, _, rfl⟩ := foreignMove_next h
    exact .inl rfl
  | dispatch | present _ | withdraw | ccAck _ _ | bsAck _ | skReady _ | sourceWrite _ _ _ =>
    cases h
    exact .inl rfl

theorem startRender_state (src : BitVec 1) (a c : Half) (s : State) :
    (startRender src a c s).hr.state = if c = 0#16 then .idle else .addr := rfl

/-- Only a reset, an accepted `RENDER` and a turn of HR itself change the registers of HR. -/
theorem step_hrRegs_cases (h : step s = .next t) :
    t.hr = s.hr ∨ nextEvent s = .hr ∨ (nextEvent s = .reset true ∧ t.hr.state = .idle) ∨
    (nextEvent s = .dispatch ∧ s.hr.state = .idle ∧ s.pins.cmdValid = true ∧
      ∃ src a c, decode (.cw s.pins.cmdWord) = .instr (.render src a c) ∧
        t.hr.state = if c = 0#16 then .idle else .addr) := by
  by_cases hhr : nextEvent s = .hr
  · exact .inr (.inl hhr)
  by_cases hvs : nextEvent s = .vs
  · exact .inl (step_vs_sameOutsideVs hvs h).hr
  by_cases hdisp : nextEvent s = .dispatch
  · obtain rfl | ⟨_, _, _, _, rfl⟩ | ⟨_, hvalid, hs, src, a, c, hrender, rfl⟩ | ⟨_, _, _, rfl⟩ :=
      step_dispatch_cases hdisp h
    · exact .inl (takeEvent_hr s)
    · exact .inl (takeEvent_hr s)
    · exact .inr (.inr (.inr ⟨hdisp, hs, hvalid, src, a, c, hrender, startRender_state src a c _⟩))
    · exact .inl (takeEvent_hr s)
  · rw [step_environment hvs hhr hdisp] at h
    rw [← takeEvent_hr s]
    exact (otherMove_hrRegs hvs hhr h).imp_right fun hreset => .inr (.inl hreset)

/-! ## The state graph -/

/-- The edges of R159 that leave the state HR is in, to `v` and under the edge's condition; `HR_IDLE` is left by `RENDER` only. -/
def RendererEdge (s : State) (v : HrState) : Prop :=
  match s.hr.state with
  | .idle => False
  | .addr => v = .slot ∧ s.hr.idx = 4#4
  | .slot => (v = .hex ∧ s.hr.count ≠ 0#16 ∧ s.pins.bsAck = true) ∨ (v = .pad ∧ s.hr.count = 0#16)
  | .hex | .pad =>
    s.hr.idx = 2#4 ∧ ((v = .slot ∧ s.hr.col.toNat + 1 < 16) ∨ (v = .sep ∧ s.hr.col.toNat + 1 = 16))
  | .sep => v = .tail
  | .tail => v = .cr ∧ s.hr.idx.toNat + 1 = s.hr.tlen.toNat
  | .cr => v = .lf
  | .lf => (v = .addr ∧ s.hr.count ≠ 0#16) ∨ (v = .idle ∧ s.hr.count = 0#16)

/-- The self-loops of R159: a character that is not the last of its field. -/
def RendererLoop (h : HrRegs) : Prop :=
  (h.state = .addr ∧ h.idx.toNat < 4) ∨ ((h.state = .hex ∨ h.state = .pad) ∧ h.idx.toNat < 2) ∨
    (h.state = .tail ∧ h.idx.toNat + 1 < h.tlen.toNat)

/-- Why a turn of HR may leave HR in the state it is in: nothing to do, the waits of 20 R53 and R58, and the self-loops. -/
def RendererStays (s : State) : Prop :=
  s.hr.state = .idle ∨ (bsPort s ≠ none ∧ s.pins.bsAck = false) ∨ (skPort s ≠ none ∧ s.pins.skReady = false) ∨
    (s.pins.skReady = true ∧ RendererLoop s.hr)

/-- No edge is a loop. -/
theorem RendererEdge.ne {v : HrState} (h : RendererEdge s v) : v ≠ s.hr.state := by
  rintro rfl
  unfold RendererEdge at h
  cases hs : s.hr.state <;> simp [hs] at h

/-- At the end of a slot's field HR goes on to the next slot, or after slot 15 to the separator. -/
theorem endSlot_edge (hs : s.hr.state = .hex ∨ s.hr.state = .pad) (hidx : s.hr.idx = 2#4) (hcol : s.hr.col.toNat < 16) :
    RendererEdge s (endSlot s.hr).state := by
  have hlast : s.hr.col + 1#5 = 16#5 ↔ s.hr.col.toNat + 1 = 16 := by bv_omega
  have hgoal : s.hr.idx = 2#4 ∧ (((endSlot s.hr).state = .slot ∧ s.hr.col.toNat + 1 < 16) ∨
      ((endSlot s.hr).state = .sep ∧ s.hr.col.toNat + 1 = 16)) := by
    refine ⟨hidx, ?_⟩
    by_cases hsixteen : s.hr.col.toNat + 1 = 16
    · exact .inr ⟨if_pos (hlast.mpr hsixteen), hsixteen⟩
    · exact .inl ⟨if_neg (mt hlast.mp hsixteen), by omega⟩
  rcases hs with hs | hs <;> simpa only [RendererEdge, hs] using hgoal

/-- A character of a slot's field is followed by another one, or ends the field. -/
theorem slotChar_edge_or_loop (hs : s.hr.state = .hex ∨ s.hr.state = .pad) (hidx : s.hr.idx.toNat ≤ 2)
    (hcol : s.hr.col.toNat < 16) :
    RendererEdge s (hrAfterSlotChar s.hr).state ∨
      ((hrAfterSlotChar s.hr).state = s.hr.state ∧ RendererLoop s.hr) := by
  rw [hrAfterSlotChar_eq hidx]
  split
  · exact .inl (endSlot_edge hs ‹_› hcol)
  · exact .inr ⟨rfl, .inr (.inl ⟨hs, by bv_omega⟩)⟩

/-- A character taken by the sink takes HR along an edge or a self-loop. -/
theorem hrAfterPut_edge_or_loop {x : SinkItem} (hinv : hrInv s.hr) (hx : hrPut s.hr = some x) :
    RendererEdge s (hrAfterPut s.hr).state ∨ ((hrAfterPut s.hr).state = s.hr.state ∧ RendererLoop s.hr) := by
  cases hs : s.hr.state <;> simp only [hrInv, hs] at hinv
  case idle | slot => simp [hrPut, hs] at hx
  case addr =>
    obtain ⟨hidx, _⟩ := hinv
    rw [hrAfterPut_addr hs, hrAfterAddr_eq hidx]
    split
    · exact .inl (by simpa [RendererEdge, hs])
    · exact .inr ⟨hs, .inl ⟨hs, by bv_omega⟩⟩
  case hex =>
    obtain ⟨hidx, hcol, _⟩ := hinv
    rw [hrAfterPut_slotField (.inl hs), ← hs]
    exact slotChar_edge_or_loop (.inl hs) hidx hcol
  case pad =>
    obtain ⟨hidx, hcol, _⟩ := hinv
    rw [hrAfterPut_slotField (.inr hs), ← hs]
    exact slotChar_edge_or_loop (.inr hs) hidx hcol
  case sep => exact .inl (by simp [hrAfterPut_sep, RendererEdge, hs])
  case tail =>
    obtain ⟨hidx, _⟩ := hinv
    rw [hrAfterPut_tail hs, hrAfterTail_eq]
    split
    · exact .inl (by simpa [RendererEdge, hs])
    · exact .inr ⟨hs, .inr (.inr ⟨hs, by omega⟩)⟩
  case cr => exact .inl (by simp [hrAfterPut_cr, RendererEdge, hs])
  case lf =>
    rw [hrAfterPut_lf hs, hrAfterLf]
    split
    · exact .inl (by simpa [RendererEdge, hs])
    · exact .inl (by simpa [RendererEdge, hs])

/-- A turn of HR out of reset follows an edge or has a reason to stay. -/
theorem step_hr_edge_or_stays (hinv : Inv s) (he : nextEvent s = .hr) (hrst : s.pins.rst = false)
    (h : step s = .next t) : RendererEdge s t.hr.state ∨ (t.hr.state = s.hr.state ∧ RendererStays s) := by
  rcases hrPut_cases s.hr with hs | ⟨hs, hcount⟩ | ⟨hs, hcount⟩ | ⟨x, hx, _, _⟩
  · cases (step_hr_idle he hs).symm.trans h
    exact .inr ⟨by rw [takeEvent_hr], .inl hs⟩
  · cases (step_hr_blankArm he hrst hs hcount).symm.trans h
    rw [RendererEdge, hs]
    exact .inl (.inr ⟨rfl, hcount⟩)
  · rw [step_hr_read he hrst hs hcount] at h
    obtain ⟨_, ⟨hlow, rfl⟩ | ⟨hack, rfl⟩⟩ := bsTransact_next h
    · exact .inr ⟨by rw [takeEvent_hr], .inr (.inl ⟨by simp [bsPort_of_consuming hrst hs hcount], by simpa using hlow⟩)⟩
    · rw [RendererEdge, hs]
      exact .inl (.inl ⟨rfl, hcount, by simpa using hack⟩)
  · rw [step_hr_put he hrst hx] at h
    obtain ⟨_, ⟨hlow, rfl⟩ | ⟨hready, rfl⟩⟩ := skTransact_next h
    · exact .inr ⟨by rw [takeEvent_hr], .inr (.inr (.inl ⟨by simp [skPort_of_hrPut hrst hx], by simpa using hlow⟩))⟩
    · rw [takeEvent_pins] at hready
      rw [State.setHr_hr, takeEvent_hr]
      exact (hrAfterPut_edge_or_loop hinv.hr hx).imp_right fun ⟨hsame, hloop⟩ =>
        ⟨hsame, .inr (.inr (.inr ⟨hready, hloop⟩))⟩

/-- In reset a turn of HR changes nothing. -/
theorem step_hr_inReset (he : nextEvent s = .hr) (hrst : s.pins.rst = true) : step s = .next (takeEvent s) := by
  rw [step_hr_silent he (.inl hrst)]
  simp [hrSilent, hrst]

/-- A turn of HR keeps its state or follows an edge. -/
theorem step_hr_state (hinv : Inv s) (he : nextEvent s = .hr) (h : step s = .next t) :
    t.hr.state = s.hr.state ∨ RendererEdge s t.hr.state := by
  cases hrst : s.pins.rst with
  | true =>
    cases (step_hr_inReset he hrst).symm.trans h
    exact .inl (by rw [takeEvent_hr])
  | false => exact (step_hr_edge_or_stays hinv he hrst h).symm.imp_left And.left

theorem step_render (he : nextEvent s = .dispatch) (hvalid : s.pins.cmdValid = true) (hrst : s.pins.rst = false)
    (hs : s.hr.state = .idle) {src : BitVec 1} {a c : Half}
    (hd : decodeCommand s.pins.cmdWord = .instr (.render src a c)) :
    step s = .next (startRender src a c (endPresentation (takeEvent s))) := by
  have hp : fetchWord (nextEvent s) (takeEvent s) = some (.cw s.pins.cmdWord) := by simp [he, fetchWord, hvalid]
  rw [step_of_decoded hp hd]
  exact execRender_idle (by rw [takeEvent_pins, hrst]) (by rw [takeEvent_hr, hs]) src a c

/-- Settles O50: only a reset, an accepted `RENDER` and a turn of HR change HR, and a turn follows `RendererEdge` or stays. -/
theorem rendererFollowsItsStateGraph : Obligations.RendererFollowsItsStateGraph := by
  intro s t hinv h
  refine ⟨?_, fun he => ?_, fun src a c he hvalid hrst hs hd => ?_, fun he hrst hsame => ?_⟩
  · obtain hkeep | he | hreset | ⟨he, hs, hvalid, src, a, c, hrender, ht⟩ := step_hrRegs_cases h
    · exact .inl (by rw [hkeep])
    · obtain hsame | hedge := step_hr_state hinv he h
      · exact .inl hsame
      unfold RendererEdge at hedge
      cases hs : s.hr.state with
      | idle => simp only [hs] at hedge
      | slot | lf =>
        simp only [hs] at hedge
        rcases hedge with hedge | hedge <;> simp [hedge]
      | hex | pad =>
        simp only [hs] at hedge
        obtain ⟨hidx, hedge | hedge⟩ := hedge <;> simp [hidx, hedge]
      | addr | sep | tail | cr =>
        simp only [hs] at hedge
        simp [hedge]
    · exact .inr (.inl hreset)
    · by_cases hc : c = 0#16
      · exact .inl (by rw [ht, if_pos hc, hs])
      · exact .inr (.inr (.inl ⟨hs, ht.trans (if_neg hc), he, hvalid, src, a, c, hrender, hc⟩))
  · cases (step_reset he).symm.trans h
    rfl
  · cases (step_render he hvalid hrst hs hd).symm.trans h
    exact startRender_state src a c _
  · obtain hedge | ⟨_, hstays⟩ := step_hr_edge_or_stays hinv he hrst h
    · exact absurd hsame hedge.ne
    · exact hstays

end

end Sys2Proof.Machine
end

section
/-!
PROOFS. A whole render (41_hex_renderer R140, R153 to R156; 30_encoding R90): with the environment answering at once, the fields of a row put
one after the other, and the rows of a dump.
-/

namespace Sys2Proof.Machine

/-! ## Turns of HR with the environment answering at once -/

/-- Out of reset, the byte sources acknowledge and the sink is ready. -/
structure AnswersAtOnce (s : State) : Prop where
  rst : s.pins.rst = false
  bsAck : s.pins.bsAck = true
  skReady : s.pins.skReady = true

/-- With the environment answering at once and `m` in the sources, `k` turns of HR take its registers from `h` to `h'` and put `out`;
nothing else changes. -/
def Renders (m : Memory) (k : Nat) (h h' : HrRegs) (out : List SinkItem) : Prop :=
  ∀ s : State, AnswersAtOnce s → s.sources = m → s.hr = h →
    RunsTo (List.replicate k .hr) s ((s.setSink (s.sink ++ out)).setHr h')

section
variable {m : Memory} {h h' h'' : HrRegs}

theorem Renders.refl (m : Memory) (h : HrRegs) : Renders m 0 h h [] := by
  rintro s _ _ rfl
  rw [List.append_nil]
  exact .nil s

theorem Renders.trans {j k : Nat} {out out' : List SinkItem} (hj : Renders m j h h' out)
    (hk : Renders m k h' h'' out') : Renders m (j + k) h h'' (out ++ out') := by
  intro s hs hm hh
  have hrest := hk ((s.setSink (s.sink ++ out)).setHr h') ⟨hs.rst, hs.bsAck, hs.skReady⟩ hm rfl
  rw [State.setHr_sink, State.setSink_sink, List.append_assoc] at hrest
  rw [List.replicate_add]
  exact (hj s hs hm hh).append hrest

theorem Renders.put {x : SinkItem} (hx : hrPut h = some x) : Renders m 1 h (hrAfterPut h) [x] := by
  rintro s hs _ rfl
  refine .single fun rest => ?_
  rw [step_hr_hand (s := s.setScript (.hr :: rest)) rfl hs.rst hx, State.setScript_pins, if_pos hs.skReady,
    if_pos hs.skReady]
  rfl

theorem Renders.read (hs : h.state = .slot) (hcount : h.count ≠ 0#16) :
    Renders m 1 h (hrAfterRead h (Memory.read m (sourceAddress h.src h.addr))) [] := by
  rintro s hs' rfl rfl
  refine .single fun rest => ?_
  rw [step_hr_consume (s := s.setScript (.hr :: rest)) rfl hs'.rst hs hcount, State.setScript_pins, if_pos hs'.bsAck,
    List.append_nil]
  rfl

theorem Renders.blank (hs : h.state = .slot) (hcount : h.count = 0#16) : Renders m 1 h (hrAfterBlank h) [] := by
  rintro s hs' _ rfl
  refine .single fun rest => ?_
  rw [step_hr_blank (s := s.setScript (.hr :: rest)) rfl hs'.rst hs hcount, List.append_nil]
  rfl

/-! ## The fields of a row -/

/-- Characters put without the end-of-line mark. -/
def unmarked (text : List Byte) : List SinkItem := text.map (SinkItem.mk false)

theorem unmarked_append (text text' : List Byte) : unmarked (text ++ text') = unmarked text ++ unmarked text' :=
  List.map_append

theorem renders_addressDigit {k : BitVec 4} (hs : h.state = .addr) (hidx : h.idx = k) (hk : k < 4#4) :
    Renders m 1 h { h with idx := k + 1#4 } (unmarked [addressDigit h.addr k.toNat]) := by
  have hput := Renders.put (m := m) (hrPut_addr hs)
  rwa [addrChar_digit h hk hidx, hrAfterPut_addr hs, hrAfterAddr, hidx, if_pos hk] at hput

theorem renders_addressSpace (hs : h.state = .addr) (hidx : h.idx = 4#4) :
    Renders m 1 h { h with idx := 0#4, col := 0#5, tlen := 0#5, state := .slot } (unmarked [space]) := by
  have hput := Renders.put (m := m) (hrPut_addr hs)
  rwa [addrChar_space hidx, hrAfterPut_addr hs, hrAfterAddr_eq (by simp [hidx]), if_pos hidx] at hput

/-- The address field: four digits and a space (R143). -/
theorem renders_addressField (hs : h.state = .addr) (hidx : h.idx = 0#4) :
    Renders m 5 h { h with idx := 0#4, col := 0#5, tlen := 0#5, state := .slot } (unmarked (addressField h.addr)) :=
  ((((renders_addressDigit hs hidx (by decide)).trans
    (renders_addressDigit (k := 1#4) hs rfl (by decide))).trans
    (renders_addressDigit (k := 2#4) hs rfl (by decide))).trans
    (renders_addressDigit (k := 3#4) hs rfl (by decide))).trans
    (renders_addressSpace hs rfl)

theorem renders_slotChar {x : SinkItem} (hs : h.state = .hex ∨ h.state = .pad) (hidx : h.idx.toNat < 2)
    (hx : hrPut h = some x) : Renders m 1 h { h with idx := h.idx + 1#4 } [x] := by
  have hmore : h.idx ≠ 2#4 := by bv_omega
  have hput := Renders.put (m := m) hx
  rwa [hrAfterPut_slotField hs, hrAfterSlotChar_eq hidx.le, if_neg hmore] at hput

theorem renders_lastSlotChar {x : SinkItem} (hs : h.state = .hex ∨ h.state = .pad) (hidx : h.idx = 2#4)
    (hx : hrPut h = some x) : Renders m 1 h (endSlot h) [x] := by
  have hput := Renders.put (m := m) hx
  rwa [hrAfterPut_slotField hs, hrAfterSlotChar_eq (by simp [hidx]), if_pos hidx] at hput

/-- The field of a slot: three characters (R147, R148). -/
theorem renders_slotField {x y z : SinkItem} (hs : h.state = .hex ∨ h.state = .pad) (hidx : h.idx = 0#4)
    (hx : hrPut h = some x) (hy : hrPut { h with idx := 1#4 } = some y) (hz : hrPut { h with idx := 2#4 } = some z) :
    Renders m 3 h (endSlot h) [x, y, z] := by
  have hfirst := renders_slotChar (m := m) hs (by simp [hidx]) hx
  rw [hidx] at hfirst
  have hsecond := renders_slotChar (m := m) (h := { h with idx := 1#4 }) hs Nat.one_lt_two hy
  have hthird := renders_lastSlotChar (m := m) (h := { h with idx := 2#4 }) hs rfl hz
  exact (hfirst.trans hsecond).trans hthird

theorem renders_byteField (hs : h.state = .hex) (hidx : h.idx = 0#4) :
    Renders m 3 h (endSlot h) (unmarked (byteField h.cur)) := by
  have hhigh := hrPut_hex hs
  rw [hexChar_high hidx] at hhigh
  exact renders_slotField (.inl hs) hidx hhigh (hrPut_hex hs) (hrPut_hex hs)

theorem renders_blankField (hs : h.state = .pad) (hidx : h.idx = 0#4) :
    Renders m 3 h (endSlot h) (unmarked (List.replicate 3 space)) :=
  renders_slotField (.inr hs) hidx (hrPut_pad hs) (hrPut_pad hs) (hrPut_pad hs)

/-! ## The slots of a row -/

/-- The part of the ASCII tail recorded so far. -/
def recorded (h : HrRegs) : List Byte := h.tail.toList.take h.tlen.toNat

theorem recorded_hrAfterRead (b : Byte) (hroom : h.tlen.toNat < 16) :
    recorded (hrAfterRead h b) = recorded h ++ [proj b] := by
  have htlen : (h.tlen + 1#5).toNat = h.tlen.toNat + 1 := by bv_omega
  simp only [recorded, hrAfterRead, htlen, Vector.toList_setIfInBounds]
  rw [List.take_succ_eq_append_getElem (by simpa using hroom), List.take_set_of_le (Nat.le_refl _),
    List.getElem_set_self]

/-- The text of the first `slots` slots of a row that shows these bytes. -/
def slotsText (bytes : List Byte) (slots : Nat) : List Byte :=
  bytes.flatMap byteField ++ List.replicate (3 * (slots - bytes.length)) space

/-- All 16 slots are the hex field (30_encoding R90). -/
theorem slotsText_sixteen (bytes : List Byte) : slotsText bytes 16 = hexField bytes := rfl

theorem slotsText_byte {bytes : List Byte} {j : Nat} (b : Byte) (hlength : bytes.length = j) :
    slotsText (bytes ++ [b]) (j + 1) = slotsText bytes j ++ byteField b := by
  simp [slotsText, hlength]

theorem slotsText_blank {bytes : List Byte} {j : Nat} (hlength : bytes.length ≤ j) :
    slotsText bytes (j + 1) = slotsText bytes j ++ List.replicate 3 space := by
  have hblanks : 3 * (j + 1 - bytes.length) = 3 * (j - bytes.length) + 3 := by omega
  rw [slotsText, hblanks, List.replicate_add, ← List.append_assoc]
  rfl

theorem bytesFrom_succ (m : Memory) (src : BitVec 1) (a : Half) (n : Nat) :
    bytesFrom m src a (n + 1) = bytesFrom m src a n ++ [Memory.read m (sourceAddress src (a + BitVec.ofNat 16 n))] := by
  simp [bytesFrom, List.range_succ]

/-- HR after the fields of `j` slots of a row that began at `a` with `n` bytes left. -/
structure SlotsDone (m : Memory) (src : BitVec 1) (a : Half) (n j : Nat) (h : HrRegs) : Prop where
  addr : h.addr = a + BitVec.ofNat 16 (min n j)
  count : h.count.toNat = n - j
  col : h.col.toNat = j
  tlen : h.tlen.toNat = min n j
  tail : recorded h = (bytesFrom m src a (min n j)).map proj
  state : h.state = if j = 16 then .sep else .slot
  src : h.src = src

theorem endSlot_col_toNat {j : Nat} (hcol : h.col.toNat = j) (hj : j < 16) : (endSlot h).col.toNat = j + 1 := by
  simp only [endSlot]
  bv_omega

theorem endSlot_state {j : Nat} (hcol : h.col.toNat = j) (hj : j < 16) :
    (endSlot h).state = if j + 1 = 16 then .sep else .slot := by
  have hlast : h.col + 1#5 = 16#5 ↔ j + 1 = 16 := by bv_omega
  simp only [endSlot, hlast]

section
variable {src : BitVec 1} {a : Half} {n j : Nat}

theorem SlotsDone.state_slot (hd : SlotsDone m src a n j h) (hj : j < 16) : h.state = .slot :=
  hd.state.trans (if_neg hj.ne)

theorem SlotsDone.count_eq_zero_iff (hd : SlotsDone m src a n j h) : h.count = 0#16 ↔ n ≤ j := by
  have hleft := hd.count
  bv_omega

theorem SlotsDone.endSlot_hrAfterRead (hd : SlotsDone m src a n j h) (hj : j < 16) (hmore : j < n) :
    SlotsDone m src a n (j + 1) (endSlot (hrAfterRead h (Memory.read m (sourceAddress h.src h.addr)))) := by
  have hmin : min n j = j := by omega
  have hmin' : min n (j + 1) = j + 1 := by omega
  have htlen : h.tlen.toNat = j := by rw [hd.tlen, hmin]
  have hcount : h.count ≠ 0#16 := mt hd.count_eq_zero_iff.mp hmore.not_ge
  have htail := hd.tail
  have haddr := hd.addr
  rw [hmin] at htail haddr
  constructor
  case src => exact hd.src
  case addr =>
    rw [hmin', BitVec.ofNat_add, ← BitVec.add_assoc, ← haddr]
    rfl
  case count =>
    have hleft := hrAfterRead_count_toNat (Memory.read m (sourceAddress h.src h.addr)) hcount
    rw [hd.count] at hleft
    exact hleft
  case col => exact endSlot_col_toNat hd.col hj
  case tlen =>
    rw [hmin', ← htlen]
    simp only [endSlot, hrAfterRead]
    bv_omega
  case tail =>
    rw [hmin', bytesFrom_succ, List.map_append, ← htail, ← haddr, ← hd.src]
    exact recorded_hrAfterRead _ (by omega)
  case state => exact endSlot_state hd.col hj

theorem SlotsDone.endSlot_hrAfterBlank (hd : SlotsDone m src a n j h) (hj : j < 16) (hnone : n ≤ j) :
    SlotsDone m src a n (j + 1) (endSlot (hrAfterBlank h)) := by
  have hmin : min n (j + 1) = min n j := by omega
  constructor
  case src => exact hd.src
  case addr => rw [hmin]; exact hd.addr
  case count => exact hd.count.trans (by omega)
  case col => exact endSlot_col_toNat hd.col hj
  case tlen => rw [hmin]; exact hd.tlen
  case tail => rw [hmin]; exact hd.tail
  case state => exact endSlot_state hd.col hj

/-- A slot with a byte left is one read and a byte field; one without is a blank arm and a blank field. -/
theorem renders_slot (hd : SlotsDone m src a n j h) (hj : j < 16) :
    ∃ h' field, Renders m 4 h h' (unmarked field) ∧ SlotsDone m src a n (j + 1) h' ∧
      slotsText (bytesFrom m src a (min n (j + 1))) (j + 1) = slotsText (bytesFrom m src a (min n j)) j ++ field := by
  have hs := hd.state_slot hj
  by_cases hcount : h.count = 0#16
  · have hnone := hd.count_eq_zero_iff.mp hcount
    have hmin : min n (j + 1) = min n j := by omega
    refine ⟨_, _, (Renders.blank hs hcount).trans (renders_blankField rfl rfl), hd.endSlot_hrAfterBlank hj hnone, ?_⟩
    rw [hmin, slotsText_blank (by rw [bytesFrom_length]; omega)]
  · have hmore : j < n := not_le.mp (mt hd.count_eq_zero_iff.mpr hcount)
    have hmin : min n j = j := by omega
    have hmin' : min n (j + 1) = j + 1 := by omega
    refine ⟨_, _, (Renders.read hs hcount).trans (renders_byteField rfl rfl), hd.endSlot_hrAfterRead hj hmore, ?_⟩
    rw [hmin', bytesFrom_succ, slotsText_byte _ (bytesFrom_length m src a j), hd.src, hd.addr, hmin]
    rfl

theorem renders_slots (hd : SlotsDone m src a n 0 h) (hj : j ≤ 16) :
    ∃ h', Renders m (4 * j) h h' (unmarked (slotsText (bytesFrom m src a (min n j)) j)) ∧
      SlotsDone m src a n j h' := by
  induction j with
  | zero =>
    rw [Nat.min_zero]
    exact ⟨h, .refl m h, hd⟩
  | succ j ih =>
    obtain ⟨h', hrun, hd'⟩ := ih (by omega)
    obtain ⟨h'', field, hslot, hd'', htext⟩ := renders_slot hd' (by omega)
    refine ⟨h'', ?_, hd''⟩
    rw [htext, unmarked_append]
    exact hrun.trans hslot

end

/-! ## The tail and the end of a row -/

theorem recorded_drop (hidx : h.idx.toNat < h.tlen.toNat) :
    (recorded h).drop h.idx.toNat = tailChar h :: (recorded h).drop (h.idx.toNat + 1) := by
  have hin : h.idx.toNat < (recorded h).length := by
    have hsixteen := h.idx.isLt
    simp only [recorded, List.length_take, Vector.length_toList]
    omega
  rw [List.drop_eq_getElem_cons hin]
  simp [recorded, tailChar]

theorem renders_tailChar (hs : h.state = .tail) (hmore : h.idx.toNat + 1 ≠ h.tlen.toNat) :
    Renders m 1 h { h with idx := h.idx + 1#4 } (unmarked [tailChar h]) := by
  have hput := Renders.put (m := m) (hrPut_tail hs)
  rwa [hrAfterPut_tail hs, hrAfterTail_eq, if_neg hmore] at hput

theorem renders_lastTailChar (hs : h.state = .tail) (hlast : h.idx.toNat + 1 = h.tlen.toNat) :
    Renders m 1 h { h with state := .cr } (unmarked [tailChar h]) := by
  have hput := Renders.put (m := m) (hrPut_tail hs)
  rwa [hrAfterPut_tail hs, hrAfterTail_eq, if_pos hlast] at hput

/-- The rest of the recorded tail is put in order (R150), `r` characters and the last one. -/
theorem renders_tail (r : Nat) (hs : h.state = .tail) (hlast : h.idx.toNat + r + 1 = h.tlen.toNat)
    (htlen : h.tlen.toNat ≤ 16) :
    ∃ i : BitVec 4, i.toNat + 1 = h.tlen.toNat ∧
      Renders m (r + 1) h { h with idx := i, state := .cr } (unmarked ((recorded h).drop h.idx.toNat)) := by
  rw [recorded_drop (by omega)]
  induction r generalizing h with
  | zero =>
    have hend : (recorded h).drop (h.idx.toNat + 1) = [] := List.drop_eq_nil_of_le (by simp [recorded, ← hlast])
    rw [hend]
    exact ⟨h.idx, hlast, renders_lastTailChar hs hlast⟩
  | succ r ih =>
    have hidx : (h.idx + 1#4).toNat = h.idx.toNat + 1 := by bv_omega
    have hlast' : (h.idx + 1#4).toNat + r + 1 = h.tlen.toNat := by omega
    obtain ⟨i, hi, hrest⟩ := ih (h := { h with idx := h.idx + 1#4 }) hs hlast' htlen
    rw [← recorded_drop (h := { h with idx := h.idx + 1#4 }) (by simp only [hidx]; omega), hidx] at hrest
    refine ⟨i, hi, ?_⟩
    rw [Nat.add_comm]
    exact (renders_tailChar hs (by omega)).trans hrest

section
variable {src : BitVec 1} {a : Half} {n : Nat}

/-- From the separating space to the line feed (R149 to R152). -/
theorem renders_tailAndTerminator (hd : SlotsDone m src a n 16 h) (hn : 0 < n) :
    ∃ i : BitVec 4, i.toNat + 1 = h.tlen.toNat ∧
      Renders m (min n 16 + 3) h (hrAfterLf { h with idx := i, state := .lf })
        (unmarked ([space] ++ (bytesFrom m src a (min n 16)).map proj ++ [carriageReturn]) ++ [⟨true, lineFeed⟩]) := by
  have hs : h.state = .sep := hd.state
  have htlen := hd.tlen
  have hsep := Renders.put (m := m) (hrPut_sep hs)
  rw [hrAfterPut_sep hs] at hsep
  obtain ⟨i, hi, htail⟩ := renders_tail (m := m) (h := { h with idx := 0#4, state := .tail }) (min n 16 - 1) rfl
    (by simp only [htlen, BitVec.toNat_ofNat]; omega) (by simp only [htlen]; omega)
  have hcr := Renders.put (m := m) (h := { h with idx := i, state := .cr }) rfl
  have hlf := Renders.put (m := m) (h := { h with idx := i, state := .lf }) rfl
  have hturns : min n 16 + 3 = 1 + (min n 16 - 1 + 1) + 1 + 1 := by omega
  refine ⟨i, hi, ?_⟩
  rw [hturns, unmarked_append, unmarked_append, ← hd.tail]
  exact ((hsep.trans htail).trans hcr).trans hlf

/-! ## A row -/

/-- HR after a row that began at `a` with `n` bytes left: at the next row, or done (R152, R156). -/
structure RowDone (src : BitVec 1) (a : Half) (n : Nat) (h : HrRegs) : Prop where
  addr : h.addr = a + BitVec.ofNat 16 (min n 16)
  count : h.count.toNat = n - 16
  col : h.col = 16#5
  tlen : h.tlen.toNat = min n 16
  more : 16 < n → h.state = .addr ∧ h.idx = 0#4
  last : n ≤ 16 → h.state = .idle ∧ h.done = true ∧ h.idx.toNat + 1 = h.tlen.toNat
  src : h.src = src

theorem SlotsDone.rowDone (hd : SlotsDone m src a n 16 h) {i : BitVec 4} (hi : i.toNat + 1 = h.tlen.toNat) :
    RowDone src a n (hrAfterLf { h with idx := i, state := .lf }) := by
  have hcol : h.col = 16#5 := BitVec.eq_of_toNat_eq hd.col
  by_cases hcount : h.count = 0#16
  · have hn := hd.count_eq_zero_iff.mp hcount
    rw [hrAfterLf, if_pos hcount]
    exact ⟨hd.addr, hd.count, hcol, hd.tlen, fun hmore => absurd hn hmore.not_ge, fun _ => ⟨rfl, rfl, hi⟩, hd.src⟩
  · have hn := mt hd.count_eq_zero_iff.mpr hcount
    rw [hrAfterLf, if_neg hcount]
    exact ⟨hd.addr, hd.count, hcol, hd.tlen, fun _ => ⟨rfl, rfl⟩, fun hlast => absurd hlast hn, hd.src⟩

theorem slotsDone_zero (hcount : h.count.toNat = n) :
    SlotsDone m h.src h.addr n 0 { h with idx := 0#4, col := 0#5, tlen := 0#5, state := .slot } where
  addr := by simp
  count := hcount
  col := rfl
  tlen := by simp
  tail := by simp [recorded, bytesFrom]
  state := rfl
  src := rfl

theorem renders_row (hs : h.state = .addr) (hidx : h.idx = 0#4) (hcount : h.count.toNat = n) (hn : 0 < n) :
    ∃ h', Renders m (72 + min n 16) h h' (rowItems h.addr (bytesFrom m h.src h.addr (min n 16))) ∧
      RowDone h.src h.addr n h' := by
  have haddress := renders_addressField (m := m) hs hidx
  obtain ⟨h', hslots, hd⟩ := renders_slots (m := m) (slotsDone_zero hcount) (Nat.le_refl 16)
  obtain ⟨i, hi, htail⟩ := renders_tailAndTerminator hd hn
  refine ⟨_, ?_, hd.rowDone hi⟩
  have hturns : 72 + min n 16 = 5 + 4 * 16 + (min n 16 + 3) := by omega
  have htext := (haddress.trans hslots).trans htail
  rw [slotsText_sixteen, ← List.append_assoc, ← unmarked_append, ← unmarked_append, ← List.append_assoc,
    ← List.append_assoc] at htext
  rw [hturns]
  exact htext

/-! ## A dump -/

/-- HR at the end of a render of `n` bytes from `a` on (R156). -/
structure RenderDone (src : BitVec 1) (a : Half) (n : Nat) (h : HrRegs) : Prop where
  state : h.state = .idle
  done : h.done = true
  addr : h.addr = a + BitVec.ofNat 16 n
  count : h.count = 0#16
  src : h.src = src

/-- COL, TLEN and IDX keep what the last row of a render of `n` bytes left in them (R156). -/
structure LastRow (n : Nat) (h : HrRegs) : Prop where
  col : h.col = 16#5
  tlen : h.tlen.toNat = (n - 1) % 16 + 1
  idx : h.idx.toNat + 1 = h.tlen.toNat

theorem RowDone.renderDone (hd : RowDone src a n h) (hn : n ≤ 16) : RenderDone src a n h := by
  obtain ⟨hs, hdone, _⟩ := hd.last hn
  have haddr := hd.addr
  rw [min_eq_left hn] at haddr
  exact ⟨hs, hdone, haddr, BitVec.eq_of_toNat_eq (hd.count.trans (Nat.sub_eq_zero_of_le hn)), hd.src⟩

theorem RowDone.lastRow (hd : RowDone src a n h) (hpos : 0 < n) (hn : n ≤ 16) : LastRow n h := by
  obtain ⟨_, _, hidx⟩ := hd.last hn
  exact ⟨hd.col, hd.tlen.trans (by omega), hidx⟩

/-- Row after row, until no byte is left (R153, R154). -/
theorem renders_rows (rows : Nat) (hs : h.state = .addr) (hidx : h.idx = 0#4) (hcount : h.count.toNat = n) (hn : 0 < n)
    (hrows : rowCount n = rows) :
    ∃ h', Renders m (72 * rows + n) h h' (dumpRows m h.src rows h.addr n) ∧ RenderDone h.src h.addr n h' ∧
      LastRow n h' := by
  induction rows generalizing h n with
  | zero =>
    rw [rowCount] at hrows
    omega
  | succ rows ih =>
    obtain ⟨h', hrow, hd⟩ := renders_row (m := m) hs hidx hcount hn
    rw [rowCount] at hrows
    by_cases hlast : n ≤ 16
    · obtain rfl : rows = 0 := by omega
      rw [dumpRows, dumpRows, List.append_nil]
      rw [min_eq_left hlast] at hrow ⊢
      exact ⟨h', hrow, hd.renderDone hlast, hd.lastRow hn hlast⟩
    · have hmore : 16 < n := by omega
      have hmin : min n 16 = 16 := by omega
      obtain ⟨hs', hidx'⟩ := hd.more hmore
      obtain ⟨h'', hrest, hend, hlastRow⟩ := ih hs' hidx' hd.count (by omega) (by rw [rowCount]; omega)
      have haddr := hd.addr
      have hturns : 72 * (rows + 1) + n = 72 + min n 16 + (72 * rows + (n - 16)) := by omega
      rw [hmin] at haddr
      rw [hd.src, haddr] at hrest hend
      refine ⟨h'', ?_, ⟨hend.state, hend.done, ?_, hend.count, hend.src⟩, hlastRow.col, ?_, hlastRow.idx⟩
      · rw [hturns, dumpRows]
        exact hrow.trans hrest
      · rw [hend.addr, BitVec.add_assoc, ← BitVec.ofNat_add, Nat.add_sub_cancel' hmore.le]
      · rw [hlastRow.tlen]
        omega

end

end

/-! ## A whole render -/

section
variable {s : State} {src : BitVec 1} {a c : Half}

theorem renderWord_eq_sum (src : BitVec 1) (a c : Half) :
    renderWord src a c =
      0x1000000000#40 + src.setWidth 40 <<< 32 + a.setWidth 40 <<< 16 + c.setWidth 40 := by
  have hsrc := src.isLt
  have ha := a.isLt
  have hc := c.isLt
  rw [renderWord_eq_ofNat]
  apply BitVec.eq_of_toNat_eq
  simp only [BitVec.toNat_ofNat, BitVec.toNat_add, BitVec.toNat_shiftLeft, BitVec.toNat_setWidth, Nat.shiftLeft_eq]
  omega

theorem runsTo_acceptRender (hrst : s.pins.rst = false) (hs : s.hr.state = .idle) (hvalid : s.pins.cmdValid = true)
    (hword : s.pins.cmdWord = renderWord src a c) : RunsTo [.dispatch] s (startRender src a c (endPresentation s)) :=
  .single fun rest => step_render (s := s.setScript (.dispatch :: rest)) rfl hvalid hrst hs
    ((decodeCommand_eq_render_iff _ src a c).mpr hword)

/-- The turns of HR after acceptance put the dump, and end as R156 says. -/
theorem renders_dump (m : Memory) (src : BitVec 1) (a c : Half) (s : State) :
    ∃ h, Renders m (renderTurns c.toNat) (startRender src a c s).hr h (dump m src a c) ∧
      RenderDone src a c.toNat h ∧ (c ≠ 0#16 → LastRow c.toNat h) := by
  by_cases hc : c = 0#16
  · subst hc
    exact ⟨_, .refl m _, ⟨rfl, rfl, (BitVec.add_zero a).symm, rfl, rfl⟩, fun hne => absurd rfl hne⟩
  · have hpos : 0 < c.toNat := by bv_omega
    obtain ⟨h, hrun, hend, hlast⟩ := renders_rows (m := m) (h := (startRender src a c s).hr) (rowCount c.toNat)
      (if_neg hc) rfl rfl hpos rfl
    exact ⟨h, hrun, hend, fun _ => hlast⟩

end

/-- Settles O56: acceptance, then the turns of `renders_dump`. -/
theorem renderPutsTheWholeDump : Obligations.RenderPutsTheWholeDump := by
  intro s src a c rest hrst hack hready hs hvalid hword hscript
  rw [← renderWord_eq_sum] at hword
  obtain ⟨h, hturns, hend, hlast⟩ := renders_dump s.sources src a c (endPresentation s)
  have haccept := runsTo_acceptRender hrst hs hvalid hword
  have hrun := haccept.cons (hturns (startRender src a c (endPresentation s)) ⟨hrst, hack, hready⟩ rfl rfl) rest
  have hs' : s.setScript (renderScript c ++ rest) = s := by rw [← hscript]; rfl
  have haddr := hend.addr
  rw [BitVec.ofNat_toNat, BitVec.setWidth_eq] at haddr
  refine ⟨h, ?_, hend.state, hend.done, haddr, hend.count, hend.src, fun hc => ?_⟩
  · change runFor (renderScript c).length (s.setScript (renderScript c ++ rest)) = _ at hrun
    rw [hs'] at hrun
    exact hrun
  · obtain ⟨hcol, htlen, hidx⟩ := hlast hc
    exact ⟨hcol, htlen, hidx⟩

end Sys2Proof.Machine
end

section
/-!
PROOFS. The converter's contract at the step (42_capability_operations R172, R178 to R182; 70_reset_and_hazards R228, R229): how a conversion
in flight ends, when an operation waits or is refused, and that a run which keeps the invariant meets no refusal but that of another owner.
-/

namespace Sys2Proof.Machine

section
variable {s t : State}

/-! ## The completion step -/

theorem completeConversion_of_busy (r : Half) (h : s.conv.convBusy = true) :
    completeConversion r s = s.setConv { s.conv with convBusy := false, raw := r, rawReady := true } := if_pos h

theorem completeConversion_of_free (r : Half) (h : s.conv.convBusy = false) : completeConversion r s = s :=
  if_neg (by simp [h])

theorem step_convDone {r : Half} (he : nextEvent s = .convDone r) :
    step s = .next (completeConversion r (takeEvent s)) := by
  rw [step_environment (by simp [he]) (by simp [he]) (by simp [he]), he, otherMove]

end

/-- Settles O41, by whether a conversion is in flight. -/
theorem converterCompletesAConversion : Obligations.ConverterCompletesAConversion := by
  intro s r he
  rw [step_convDone he]
  refine ⟨fun hbusy => ?_, fun hfree => ?_⟩
  · rw [completeConversion_of_busy r (by rw [takeEvent_conv, hbusy]), takeEvent_conv]
  · rw [completeConversion_of_free r (by rw [takeEvent_conv, hfree])]

/-! ## An operation that is not acknowledged, or not covered -/

/-- Settles O23: `EN_ANALOG` is a transaction on the CC port that an in-flight conversion leaves unacknowledged. -/
theorem enAnalogWaitsForAnIdleConverter : Obligations.EnAnalogWaitsForAnIdleConverter := by
  intro s hrst hs hbusy
  have hport : ccPort s = some CcOp.enAnalog.code := ccPort_of_request hrst (by rw [hs]; rfl)
  have hwait : ccAcknowledged .enAnalog s = false := by simp [ccAcknowledged, hbusy]
  rw [exec, execEnAnalog]
  exact ccTransact_waits _ hport hwait

/-- An operation VS drives, acknowledged in a converter state its contract does not cover, is refused by name (R182). -/
theorem ccTransact_uncovered {op : CcOp} {s : State} (vsNext : Half → VsRegs) (hport : ccPort s = some op.code)
    (hack : ccAcknowledged op s = true) (hcov : ccCovered op s.conv = false) :
    ccTransact op s vsNext = .refused .converterUnspecified := by
  simp [ccTransact, hport, hack, hcov]

/-- The converter states of R182 that its contract leaves out, operation by operation. -/
theorem ccCovered_eq_false_iff (op : CcOp) (c : Converter) :
    ccCovered op c = false ↔
      op = .cfgRef ∧ c.anEn = false ∨ op = .trig ∧ c.anEn = false ∨ op = .poll ∧ c.anEn = false ∨
        op = .rdRaw ∧ c.anEn = false ∨ op = .trig ∧ c.convBusy = true ∨ op = .rdRaw ∧ c.rawReady = false := by
  cases op with
  | enAnalog | disAnalog | cfgRef | poll => simp [ccCovered]
  | trig | rdRaw => cases hen : c.anEn <;> simp [ccCovered, hen]

/-- Settles O24: the listed states are those `ccCovered` leaves out, and `EN_ANALOG`, which may wait, is not among the operations. -/
theorem uncoveredConverterOpsAreRefused : Obligations.UncoveredConverterOpsAreRefused := by
  intro i op s hop hport hack hstates
  have hcov : ccCovered op s.conv = false := (ccCovered_eq_false_iff op s.conv).mpr hstates
  have hne : op ≠ .enAnalog := by rintro rfl; cases hcov
  obtain ⟨vsNext, hexec⟩ := exec_eq_ccTransact hop s
  rw [hexec]
  exact ccTransact_uncovered vsNext hport (ccAcknowledged_of_ccAck hne hack) hcov

section
variable {s t : State}

/-! ## How a conversion in flight ends -/

/-- Of the six operations only `DIS_ANALOG` ends a conversion (R172, R175). -/
theorem ccEffect_convBusy {op : CcOp} (hop : op ≠ .disAnalog) (freeRaw : Half) {c : Converter} (h : c.convBusy = true) :
    (ccEffect op freeRaw c).convBusy = true := by
  cases op with
  | disAnalog => exact absurd rfl hop
  | trig => rfl
  | enAnalog | cfgRef | poll | rdRaw => exact h

theorem settleStep_convBusy (s : State) : (settleStep s).conv.convBusy = s.conv.convBusy := by
  unfold settleStep
  split <;> rfl

theorem step_vs_convBusy (he : nextEvent s = .vs) (hbusy : s.conv.convBusy = true) (h : step s = .next t) :
    t.conv.convBusy = true ∨ (ccPort s = some CcOp.disAnalog.code ∧ s.pins.ccAck = true) := by
  obtain rfl | ⟨_, _, rfl⟩ | ⟨_, _, rfl⟩ | ⟨hrst, hack, op, hreq, _, _, rfl⟩ := step_vs_cases he h
  · exact .inl (by rw [takeEvent_conv, hbusy])
  · exact .inl (by rw [settleStep_convBusy, takeEvent_conv, hbusy])
  · rw [divStep_eq]
    exact .inl (by rw [State.setVs_conv, takeEvent_conv, hbusy])
  · by_cases hop : op = .disAnalog
    · subst hop
      exact .inr ⟨ccPort_of_request hrst hreq, hack⟩
    · have hbusy' : (takeEvent s).conv.convBusy = true := by rw [takeEvent_conv, hbusy]
      exact .inl (ccEffect_convBusy hop _ hbusy')

theorem step_dispatch_conv (he : nextEvent s = .dispatch) (h : step s = .next t) : t.conv = s.conv := by
  obtain rfl | ⟨_, _, _, _, rfl⟩ | ⟨_, _, _, _, _, _, _, rfl⟩ | ⟨_, _, _, rfl⟩ := step_dispatch_cases he h <;>
    exact takeEvent_conv s

/-- A move of the environment leaves the converter as it is, but for its completion step and for another owner, who is let in only where
VS is idle and the window is closed. -/
theorem otherMove_conv {e : Event} (hvs : e ≠ .vs) (hhr : e ≠ .hr) (h : otherMove e s = .next t) :
    t.conv = s.conv ∨ (∃ r, e = .convDone r) ∨ (s.vs.state = .idle ∧ s.owned = false) := by
  cases e with
  | vs => exact absurd rfl hvs
  | hr => exact absurd rfl hhr
  | convDone r => exact .inr (.inl ⟨r, rfl⟩)
  | foreign c =>
    obtain ⟨hs, howned, _⟩ := foreignMove_next h
    exact .inr (.inr ⟨hs, howned⟩)
  | reset level =>
    cases h
    cases level <;> exact .inl rfl
  | dispatch | present _ | withdraw | ccAck _ _ | bsAck _ | skReady _ | sourceWrite _ _ _ =>
    cases h
    exact .inl rfl

end

/-- Settles O42, by the kind of move: VS ends a conversion by `DIS_ANALOG` only, HR and the dispatcher have no access to the converter, and
another owner is kept out. -/
theorem noStaleCompletion : Obligations.NoStaleCompletion := by
  intro s t hreserved hbusy h
  by_cases hvs : nextEvent s = .vs
  · exact (step_vs_convBusy hvs hbusy h).imp_right fun hdis => .inr ⟨hvs, hdis⟩
  by_cases hhr : nextEvent s = .hr
  · exact .inl (by rw [(step_hr_sameOutsideHr hhr h).conv, hbusy])
  by_cases hdisp : nextEvent s = .dispatch
  · exact .inl (by rw [step_dispatch_conv hdisp h, hbusy])
  · rw [step_environment hvs hhr hdisp] at h
    obtain hkeep | hdone | ⟨hs, howned⟩ := otherMove_conv hvs hhr h
    · exact .inl (by rw [hkeep, takeEvent_conv, hbusy])
    · exact .inr (.inl hdone)
    · rw [takeEvent_vs] at hs
      rw [takeEvent_owned] at howned
      simp [hs, howned] at hreserved

section
variable {s : State} {r : Refusal}

/-! ## What a step that is refused can be -/

/-- A turn of VS is refused only for an operation the converter's contract does not cover. -/
theorem step_vs_refused (he : nextEvent s = .vs) (h : step s = .refused r) :
    ∃ op, vsRequest s.vs.state = some op ∧ ccCovered op s.conv = false := by
  rcases ccPort_cases s with hport | ⟨op, hport, hreq, _⟩
  · rw [step_vs_silent he hport] at h
    cases h
  · obtain ⟨i, hi, hstep⟩ := step_vs_op he hport
    obtain ⟨vsNext, hexec⟩ := exec_eq_ccTransact hi (takeEvent s)
    rw [hstep, hexec] at h
    obtain ⟨_, hnot⟩ | ⟨_, _, _, hcov⟩ := ccTransact_refused h
    · exact absurd (by rw [ccPort_takeEvent, hport]) hnot
    · exact ⟨op, hreq, by rwa [takeEvent_conv] at hcov⟩

/-- HR issues what its own step asks for, so none of its turns is refused. -/
theorem step_hr_not_refused (he : nextEvent s = .hr) : step s ≠ .refused r := by
  intro h
  cases hrst : s.pins.rst with
  | true => cases (step_hr_inReset he hrst).symm.trans h
  | false =>
    rcases hrPut_cases s.hr with hs | ⟨hs, hcount⟩ | ⟨hs, hcount⟩ | ⟨x, hx, _, _⟩
    · cases (step_hr_idle he hs).symm.trans h
    · cases (step_hr_blankArm he hrst hs hcount).symm.trans h
    · rw [step_hr_read he hrst hs hcount] at h
      obtain ⟨_, hnot⟩ := bsTransact_refused h
      exact hnot (by rw [bsPort_takeEvent, bsPort_of_consuming hrst hs hcount])
    · rw [step_hr_put he hrst hx] at h
      obtain ⟨_, hnot⟩ := skTransact_refused h
      exact hnot (by rw [skPort_takeEvent, skPort_of_hrPut hrst hx])

/-- A command is accepted or waits. -/
theorem acceptCommand_not_refused {ready : Bool} {start : State → State} : acceptCommand ready s start ≠ .refused r := by
  rcases acceptCommand_cases ready s start with ⟨_, _, haccept⟩ | ⟨_, hwait⟩
  · rw [haccept]
    exact nofun
  · rw [hwait]
    exact nofun

/-- The dispatcher refuses no word: it lets it wait, accepts it, or flags it. -/
theorem step_dispatch_not_refused (he : nextEvent s = .dispatch) : step s ≠ .refused r := by
  cases hvalid : s.pins.cmdValid with
  | false =>
    rw [step_dispatch_none he hvalid]
    exact nofun
  | true =>
    rcases step_dispatch he hvalid with ⟨_, hstep⟩ | ⟨src, a, c, _, hstep⟩ | ⟨_, hstep⟩ <;> rw [hstep]
    · exact acceptCommand_not_refused
    · exact acceptCommand_not_refused
    · exact nofun

/-- Of the moves that carry no port word only another owner's is ever refused. -/
theorem otherMove_refused {e : Event} (h : otherMove e s = .refused r) :
    ∃ c, e = .foreign c ∧ r = .converterOwned ∧ (s.vs.state ≠ .idle ∨ s.owned = true) := by
  cases e with
  | foreign c => exact ⟨c, rfl, foreignMove_refused h⟩
  | vs | hr | dispatch | present _ | withdraw | reset _ | ccAck _ _ | bsAck _ | skReady _ | convDone _
  | sourceWrite _ _ _ => cases h

/-- All that a refused step can be, from any state: VS at an operation no contract covers, or another owner kept out. -/
theorem step_refused_cases (h : step s = .refused r) :
    (nextEvent s = .vs ∧ ∃ op, vsRequest s.vs.state = some op ∧ ccCovered op s.conv = false) ∨
    (∃ c, nextEvent s = .foreign c ∧ r = .converterOwned ∧ (s.vs.state ≠ .idle ∨ s.owned = true)) := by
  by_cases hvs : nextEvent s = .vs
  · exact .inl ⟨hvs, step_vs_refused hvs h⟩
  by_cases hhr : nextEvent s = .hr
  · exact absurd h (step_hr_not_refused hhr)
  by_cases hdisp : nextEvent s = .dispatch
  · exact absurd h (step_dispatch_not_refused hdisp)
  · rw [step_environment hvs hhr hdisp] at h
    obtain ⟨c, he, hr, hreserved⟩ := otherMove_refused h
    rw [takeEvent_vs, takeEvent_owned] at hreserved
    exact .inr ⟨c, he, hr, hreserved⟩

/-! ## What the invariant excludes -/

/-- The invariant holds the converter, in each state that issues an operation, where the contract covers that operation. -/
theorem ccCovered_of_vsInv {op : CcOp} (hinv : vsInv s) (hreq : vsRequest s.vs.state = some op) :
    ccCovered op s.conv = true := by
  unfold vsInv at hinv
  cases hs : s.vs.state <;> rw [hs] at hreq hinv <;> cases hreq
  case rstdis | enable | disable => rfl
  case config =>
    obtain ⟨_, hen, _⟩ := hinv
    exact hen
  case trig =>
    obtain ⟨⟨⟨_, hen, _⟩, _⟩, hbusy⟩ := hinv
    simp [ccCovered, hen, hbusy]
  case poll =>
    obtain ⟨⟨⟨_, hen, _⟩, _⟩, _⟩ := hinv
    exact hen
  case read =>
    obtain ⟨⟨⟨_, hen, _⟩, _⟩, _, hready⟩ := hinv
    simp [ccCovered, hen, hready]

/-- The window of ownership lies inside `VS_BUSY` = 1 (R181; log 14). -/
theorem busy_of_owned (hinv : vsInv s) (howned : s.owned = true) : s.vs.state ≠ .idle := by
  intro hs
  rw [vsInv, hs] at hinv
  exact Bool.false_ne_true (hinv.symm.trans howned)

end

/-- Settles O9: the invariant covers every operation VS issues, and keeps the window inside `VS_BUSY` = 1. -/
theorem onlyForeignMovesAreRefused : Obligations.OnlyForeignMovesAreRefused := by
  intro s r hinv h
  obtain ⟨_, op, hreq, huncovered⟩ | ⟨c, he, hr, hreserved⟩ := step_refused_cases h
  · exact absurd ((ccCovered_of_vsInv hinv.vs hreq).symm.trans huncovered) Bool.true_eq_false_eq_False
  · exact ⟨hr, hreserved.elim id (busy_of_owned hinv.vs), c, he⟩

end Sys2Proof.Machine
end

section
/-!
PROOFS. Reset (70_reset_and_hazards R215, R216, R220): what it leaves in the control registers and on the STATUS port, and that nothing is
accepted while it lasts.
-/

namespace Sys2Proof.Machine

/-! ## The STATUS port in reset -/

/-- The control registers as 10_state R45 gives them. -/
structure ControlReset (s : State) : Prop where
  vsState : s.vs.state = .rstdis
  vsDone : s.vs.done = false
  noread : s.vs.noread = false
  range : s.vs.range = false
  hrState : s.hr.state = .idle
  hrDone : s.hr.done = false
  cmdErr : s.cmdErr = false

section
variable {s : State}

/-- Of the bits of STATUS only `VS_BUSY` is set, for the release step still to come (R217). -/
theorem ControlReset.status_eq (h : ControlReset s) : status s = 0b00000001#8 := by
  obtain ⟨hvs, hdone, hnoread, hrange, hhr, hhrDone, herr⟩ := h
  simp only [status, vsBusy_eq_decide, hrBusy_eq_decide, hvs, hdone, hnoread, hrange, hhr, hhrDone, herr]
  rfl

/-- The invariant names five of the seven in reset; the two fault flags are clear because `VS_DONE` is. -/
theorem Inv.controlReset (hinv : Inv s) (hrst : s.pins.rst = true) : ControlReset s := by
  obtain ⟨hvs, hdone, hhr, hhrDone, herr⟩ := hinv.inReset hrst
  obtain ⟨hnoread, hrange⟩ := hinv.vsFlags.2 hdone
  exact ⟨hvs, hdone, hnoread, hrange, hhr, hhrDone, herr⟩

theorem controlReset_driveReset (s : State) : ControlReset (driveReset true s) := ⟨rfl, rfl, rfl, rfl, rfl, rfl, rfl⟩

/-! ## A turn of the dispatcher in reset -/

theorem acceptCommand_inReset {ready : Bool} {start : State → State} (hrst : s.pins.rst = true) :
    acceptCommand ready s start = .next s := by
  simp [acceptCommand, hrst]

theorem acceptIllegal_inReset (hrst : s.pins.rst = true) : acceptIllegal s = s := if_pos hrst

/-- In reset a turn of the dispatcher changes nothing: a command waits, and an illegal word is not flagged. -/
theorem step_dispatch_inReset (he : nextEvent s = .dispatch) (hrst : s.pins.rst = true) :
    step s = .next (takeEvent s) := by
  have hrst' : (takeEvent s).pins.rst = true := by rw [takeEvent_pins, hrst]
  cases hvalid : s.pins.cmdValid with
  | false => exact step_dispatch_none he hvalid
  | true =>
    rcases step_dispatch he hvalid with ⟨_, hstep⟩ | ⟨src, a, c, _, hstep⟩ | ⟨_, hstep⟩ <;> rw [hstep]
    · exact acceptCommand_inReset hrst'
    · exact acceptCommand_inReset hrst'
    · rw [acceptIllegal_inReset hrst']

end

/-- Settles O46: every port is gated by `rst`, STATUS is that of the control registers the invariant keeps at their reset values, and each of
the three turns is idle. -/
theorem nothingMovesInReset : Obligations.NothingMovesInReset := by
  intro s hinv hrst
  obtain ⟨hcc, hbs, hsk, hready⟩ := ports_idle_in_reset hrst
  refine ⟨hcc, hbs, hsk, hready, (hinv.controlReset hrst).status_eq, ?_⟩
  rintro (he | he | he)
  · exact step_vs_inReset he hrst
  · exact step_hr_inReset he hrst
  · exact step_dispatch_inReset he hrst

/-- Settles O45: the state a reset leads to has the control registers of R45 and, outside them and the free registers, is the old one. -/
theorem resetAbandonsBothUnits : Obligations.ResetAbandonsBothUnits := by
  intro s he
  have hreset := controlReset_driveReset (takeEvent s)
  exact ⟨driveReset true (takeEvent s), step_reset he, hreset.vsState, hreset.vsDone, hreset.noread, hreset.range,
    hreset.hrState, hreset.hrDone, hreset.cmdErr, hreset.status_eq, takeEvent_conv s, takeEvent_owned s,
    takeEvent_sources s, takeEvent_sink s, takeEvent_params s,
    congrArg (fun p : Pins => { p with rst := true }) (takeEvent_pins s)⟩

end Sys2Proof.Machine
end

section
/-!
PROOFS. Who may act on the converter, and when (70_reset_and_hazards R229, R230; 42_capability_operations R181): another owner only where it
is not VS's alone, a busy VS by the operations it drives, and VS gives it back before it reports a result.
-/

namespace Sys2Proof.Machine

section
variable {s : State}

/-! ## Another owner's move -/

theorem step_foreign {c : Converter} (he : nextEvent s = .foreign c) : step s = foreignMove c (takeEvent s) := by
  rw [step_environment (by simp [he]) (by simp [he]) (by simp [he]), he, otherMove]

theorem converterReserved_iff : converterReserved s = true ↔ s.vs.state ≠ .idle ∨ s.owned = true := by
  rw [converterReserved, vsBusy_eq_decide, Bool.or_eq_true, decide_eq_true_iff]

theorem foreignMove_of_reserved {c : Converter} (h : s.vs.state ≠ .idle ∨ s.owned = true) :
    foreignMove c s = .refused .converterOwned :=
  if_pos (converterReserved_iff.mpr h)

theorem foreignMove_of_free {c : Converter} (hs : s.vs.state = .idle) (howned : s.owned = false) :
    foreignMove c s = .next (s.setConv c) :=
  if_neg (by simp [converterReserved_iff, hs, howned])

end

/-- Settles O43: where the converter is VS's alone is a matter of `VS_STATE` and the window, which taking the move off keeps. -/
theorem foreignOwnerOnlyOutsideTheWindow : Obligations.ForeignOwnerOnlyOutsideTheWindow := by
  intro s c he
  rw [step_foreign he]
  refine ⟨fun hs howned => foreignMove_of_free ?_ ?_, fun hreserved => foreignMove_of_reserved ?_⟩
  · rw [takeEvent_vs, hs]
  · rw [takeEvent_owned, howned]
  · rwa [takeEvent_vs, takeEvent_owned]

section
variable {s t : State}

/-! ## What a step can do to the converter while VS is busy -/

theorem eq_withRefAge_of_eq {c d : Converter} (h : c = d) : c = { d with refAge := c.refAge } := by
  rw [h]

/-- In `VS_SETTLE` only the model's count of periods changes (log 21). -/
theorem settleStep_conv (s : State) : (settleStep s).conv = { s.conv with refAge := s.conv.refAge + 1 } := by
  unfold settleStep
  split <;> rfl

theorem step_vs_conv (he : nextEvent s = .vs) (h : step s = .next t) :
    t.conv = { s.conv with refAge := t.conv.refAge } ∨
      (s.pins.ccAck = true ∧ ∃ op : CcOp, ccPort s = some op.code) := by
  obtain rfl | ⟨_, _, rfl⟩ | ⟨_, _, rfl⟩ | ⟨hrst, hack, op, hreq, _, _, rfl⟩ := step_vs_cases he h
  · exact .inl (eq_withRefAge_of_eq (takeEvent_conv s))
  · rw [settleStep_conv, takeEvent_conv]
    exact .inl rfl
  · rw [divStep_eq]
    exact .inl (eq_withRefAge_of_eq (takeEvent_conv s))
  · exact .inr ⟨hack, op, ccPort_of_request hrst hreq⟩

end

/-- Settles O59, by the kind of move: HR and the dispatcher have no access to the converter, and a busy VS keeps another owner out. -/
theorem busyConverterServesOnlyTheSampler : Obligations.BusyConverterServesOnlyTheSampler := by
  intro s t hbusy h
  by_cases hvs : nextEvent s = .vs
  · exact (step_vs_conv hvs h).imp_right fun hop => .inr ⟨hvs, hop⟩
  by_cases hhr : nextEvent s = .hr
  · exact .inl (eq_withRefAge_of_eq (step_hr_sameOutsideHr hhr h).conv)
  by_cases hdisp : nextEvent s = .dispatch
  · exact .inl (eq_withRefAge_of_eq (step_dispatch_conv hdisp h))
  · rw [step_environment hvs hhr hdisp] at h
    obtain hkeep | hdone | ⟨hs, _⟩ := otherMove_conv hvs hhr h
    · exact .inl (eq_withRefAge_of_eq (hkeep.trans (takeEvent_conv s)))
    · exact .inr (.inl hdone)
    · exact absurd (by rwa [takeEvent_vs] at hs) hbusy

section
variable {s t : State}

/-! ## The way to `VS_DONE` -/

/-- In `VS_DIV` the converter has been given back (R230). -/
theorem released_of_div (hinv : Inv s) (hs : s.vs.state = .div) :
    s.owned = false ∧ s.conv.anEn = false ∧ s.conv.refCfg = false ∧ s.conv.convBusy = false := by
  have hvs := hinv.vs
  rw [vsInv, hs] at hvs
  obtain ⟨howned, hen, hcfg, hbusy, _⟩ := hvs
  exact ⟨howned, hen, hcfg, hbusy⟩

/-- Of the turns of VS only that in `VS_DIV` raises `VS_DONE`. -/
theorem step_vs_done_rises (he : nextEvent s = .vs) (hlow : s.vs.done = false) (hhigh : t.vs.done = true)
    (h : step s = .next t) : s.vs.state = .div ∧ t.conv = s.conv := by
  obtain rfl | ⟨_, _, rfl⟩ | ⟨_, hs, rfl⟩ | ⟨_, _, op, _, _, _, rfl⟩ := step_vs_cases he h
  · simp [hlow] at hhigh
  · obtain ⟨hkeep, _⟩ := settleStep_flags (takeEvent s)
    simp [hkeep, hlow] at hhigh
  · rw [divStep_eq]
    exact ⟨hs, takeEvent_conv s⟩
  · obtain ⟨hkeep, _⟩ := vsAfter_flags op s
    simp [hkeep, hlow] at hhigh

/-- Of all moves only a turn of VS raises `VS_DONE`: the others keep the registers of VS, or leave VS in a state in which the invariant has
`VS_DONE` = 0. -/
theorem step_done_rises (hinv : Inv s) (hlow : s.vs.done = false) (hhigh : t.vs.done = true) (h : step s = .next t) :
    nextEvent s = .vs := by
  have hidle : t.vs.state = .idle := ((everyStepKeepsTheInvariant s t hinv h).vsFlags.1 hhigh).1
  obtain hkeep | he | ⟨_, ht⟩ | ⟨_, _, ht, _, _⟩ := step_vsRegs_cases h
  · simp [hkeep, hlow] at hhigh
  · exact he
  · exact absurd (ht.symm.trans hidle) nofun
  · exact absurd (ht.symm.trans hidle) nofun

/-- The one edge of R130 into `VS_DIV`. -/
theorem SamplerEdge.disable_of_div (h : SamplerEdge s .div) : s.vs.state = .disable := by
  unfold SamplerEdge at h
  cases hs : s.vs.state with
  | disable => rfl
  | read =>
    simp only [hs] at h
    split at h <;> exact absurd h.1 nofun
  | rstdis | idle | enable | config | settle | trig | poll | div => simp [hs] at h

theorem step_enters_div (h : step s = .next t) (hdiv : t.vs.state = .div) (hnew : s.vs.state ≠ .div) :
    s.vs.state = .disable := by
  obtain hkeep | he | ⟨_, ht⟩ | ⟨_, _, ht, _, _⟩ := step_vsRegs_cases h
  · exact absurd (by rw [← hkeep, hdiv]) hnew
  · obtain hsame | hedge := step_vs_state he h
    · exact absurd (hsame.symm.trans hdiv) hnew
    · rw [hdiv] at hedge
      exact hedge.disable_of_div
  · exact absurd (ht.symm.trans hdiv) nofun
  · exact absurd (ht.symm.trans hdiv) nofun

end

/-- Settles O51: `VS_DONE` rises in `VS_DIV`, `VS_DIV` is entered from `VS_DISABLE`, and the invariant has the converter released there. -/
theorem doneOnlyAfterDisable : Obligations.DoneOnlyAfterDisable := by
  intro s t hinv h
  refine ⟨fun hlow hhigh => ?_, fun hdiv hnew => ?_⟩
  · have he := step_done_rises hinv hlow hhigh h
    obtain ⟨hs, hconv⟩ := step_vs_done_rises he hlow hhigh h
    obtain ⟨howned, hoff⟩ := released_of_div hinv hs
    rw [hconv]
    exact ⟨hs, he, howned, hoff⟩
  · obtain ⟨_, hoff⟩ := released_of_div (everyStepKeepsTheInvariant s t hinv h) hdiv
    exact ⟨step_enters_div h hdiv hnew, hoff⟩

end Sys2Proof.Machine
end

section
/-!
PROOFS. Fixed words and the reset state: the words of 95_test_vectors written out in bits (30_encoding R84 to R89), and the invariant in the
state right after reset (70_reset_and_hazards R215).
-/

namespace Sys2Proof.Machine

/-- Settles O4: the five legal words are encodings, so decoding gives their operations back; the other two have a nonzero operand after the
code of `MEASURE`, and the code 0x12. -/
theorem specWordsDecode : Obligations.SpecWordsDecode := by
  have hoperand : decodeCommand 0x0100000001#40 = .reject .illegalCommand :=
    decodeCommand_illegal (.inr ⟨by decide, .inr (by decide)⟩)
  have hcode : decodeCommand 0x1200000010#40 = .reject .illegalCommand := decodeCommand_illegal (.inl (by decide))
  exact ⟨decodeOfEncodeIsIdentity .measure, decodeOfEncodeIsIdentity (.render 1#1 0xFFFF#16 65535#16), hoperand, hcode,
    decodeOfEncodeIsIdentity .disAnalog, decodeOfEncodeIsIdentity (.bsRead 1#1 0x0100#16),
    decodeOfEncodeIsIdentity (.skPut true 0x0A#8)⟩

/-- Settles O7, clause by clause: `VS_RSTDIS` and `HR_IDLE` ask for nothing, the flags are clear, the sources and the sink are empty, and
`rst` has fallen. -/
theorem invariantHoldsAtReset : Obligations.InvariantHoldsAtReset where
  vs := trivial
  vsFlags := vsFlagsInv_of_clear rfl rfl rfl
  hr := trivial
  memory := rfl
  sink := fun _ hx => absurd hx List.not_mem_nil
  inReset := resetInv_of_rst_low rfl

end Sys2Proof.Machine
end

section
/-!
PROOFS. The frame of each operation (10_state R20, 20_memory R50): what `exec` leaves unchanged where it answers a next state, for the
converter operations, the commands, and the operations of HR.
-/

namespace Sys2Proof.Machine

/-! ## The converter operations -/

/-- A converter operation that answers a next state waited, or was acknowledged. -/
theorem exec_converterOp_next {i : Instr} {op : CcOp} {s t : State} (hi : ccOpOf i = some op) (h : exec i s = .next t) :
    t = s ∨ t = afterOp op s := by
  obtain ⟨vsNext, hexec, hnext⟩ := exec_converterOp hi s
  rw [hexec] at h
  obtain ⟨_, ⟨_, hwait⟩ | ⟨_, _, hdone⟩⟩ := ccTransact_next h
  · exact .inl hwait
  · exact .inr (by rw [hdone, hnext, afterOp])

/-- The registers of VS an operation writes beside `VS_STATE`: `SETTLE` in `CFG_REF` (R113), `ACC` and `SAMP` in `RD_RAW` (R117). -/
theorem vsAfter_frame (op : CcOp) (s : State) :
    (vsAfter op s).result = s.vs.result ∧ (op ≠ .cfgRef → (vsAfter op s).settle = s.vs.settle) ∧
      (op ≠ .rdRaw → (vsAfter op s).acc = s.vs.acc ∧ (vsAfter op s).samp = s.vs.samp) := by
  cases op <;> simp [vsAfter]

/-- Which operations change which item of the converter (42_capability_operations R170 to R175). -/
theorem ccEffect_frame (op : CcOp) (freeRaw : Half) (c : Converter) :
    (op ≠ .enAnalog → op ≠ .disAnalog → (ccEffect op freeRaw c).anEn = c.anEn) ∧
    (op ≠ .cfgRef → op ≠ .disAnalog → (ccEffect op freeRaw c).refCfg = c.refCfg) ∧
    (op ≠ .cfgRef → (ccEffect op freeRaw c).refAge = c.refAge) ∧
    (op ≠ .trig → op ≠ .disAnalog → (ccEffect op freeRaw c).convBusy = c.convBusy) ∧
    (op ≠ .disAnalog → (ccEffect op freeRaw c).raw = c.raw ∧ (ccEffect op freeRaw c).rawReady = c.rawReady) := by
  cases op <;> simp [ccEffect]

/-- Only the operations that open and close it change the window of R181 (log 14). -/
theorem ccOwned_of_inside {op : CcOp} (hen : op ≠ .enAnalog) (hdis : op ≠ .disAnalog) (owned : Bool) :
    ccOwned op owned = owned := by
  cases op with
  | enAnalog => exact absurd rfl hen
  | disAnalog => exact absurd rfl hdis
  | cfgRef | trig | poll | rdRaw => rfl

/-- Only `DIS_ANALOG` draws a free value (log 15). -/
theorem ccDraws_eq_zero {op : CcOp} (hdis : op ≠ .disAnalog) : ccDraws op = 0 := by
  cases op with
  | disAnalog => exact absurd rfl hdis
  | enAnalog | cfgRef | trig | poll | rdRaw => rfl

/-- Settles O26: an operation that waited changed nothing, and one that was acknowledged has the frames of the VS step and of the effect on
the converter. -/
theorem converterOpsFrame : Obligations.ConverterOpsFrame := by
  intro i op s t hi h
  obtain rfl | rfl := exec_converterOp_next hi h
  · simp
  · obtain ⟨hdone, hnoread, hrange⟩ := vsAfter_flags op s
    obtain ⟨hresult, hsettle, hsum⟩ := vsAfter_frame op s
    obtain ⟨hanEn, hrefCfg, hrefAge, hconvBusy, hraw⟩ := ccEffect_frame op (Config.freeRaw s.freeIx) s.conv
    refine ⟨rfl, rfl, rfl, rfl, rfl, rfl, rfl, fun _ => rfl, hresult, hdone, hnoread, hrange, hsettle, hsum,
      fun hen hdis => ⟨hanEn hen hdis, ccOwned_of_inside hen hdis s.owned⟩, hrefCfg, hrefAge, hconvBusy, fun hdis => ?_⟩
    obtain ⟨hkeep, hready⟩ := hraw hdis
    exact ⟨hkeep, hready, congrArg (s.freeIx + ·) (ccDraws_eq_zero hdis)⟩

/-! ## The commands -/

/-- A command that answers a next state waited, or was taken off the port and started. -/
theorem acceptCommand_next {ready : Bool} {s t : State} {start : State → State}
    (h : acceptCommand ready s start = .next t)  : t = s ∨ t = start (endPresentation s) := by
  obtain ⟨_, _, haccept⟩ | ⟨_, hwait⟩ := acceptCommand_cases ready s start
  · cases haccept.symm.trans h
    exact .inr rfl
  · cases hwait.symm.trans h
    exact .inl rfl

/-- Settles O27: a command that waited changed nothing, and one that was accepted lowered `cmd_valid` and started its own unit. -/
theorem commandsFrame : Obligations.CommandsFrame := by
  intro i s t hi h
  obtain rfl | ⟨src, a, c, rfl⟩ := hi
  · rw [exec, execMeasure] at h
    obtain rfl | rfl := acceptCommand_next h
    · simp
    · exact ⟨rfl, rfl, rfl, rfl, fun _ => rfl, rfl, rfl, rfl, rfl, rfl, fun _ => ⟨rfl, rfl, rfl⟩, fun hne => absurd rfl hne⟩
  · rw [exec, execRender] at h
    obtain rfl | rfl := acceptCommand_next h
    · simp
    · exact ⟨rfl, rfl, rfl, rfl, fun _ => rfl, rfl, rfl, rfl, rfl, rfl, nofun, fun _ => ⟨rfl, rfl, rfl, rfl, rfl⟩⟩

/-! ## The operations of HR -/

/-- The registers of HR that no put writes are the same: what is still to be rendered, the byte consumed last and the recorded tail. -/
structure SameUnderPut (h h' : HrRegs) : Prop where
  src : h'.src = h.src
  addr : h'.addr = h.addr
  count : h'.count = h.count
  cur : h'.cur = h.cur
  tail : h'.tail = h.tail

section
variable (h : HrRegs)

theorem sameUnderPut_hrAfterAddr : SameUnderPut h (hrAfterAddr h) := by
  unfold hrAfterAddr
  split <;> exact ⟨rfl, rfl, rfl, rfl, rfl⟩

theorem sameUnderPut_hrAfterSlotChar : SameUnderPut h (hrAfterSlotChar h) := by
  unfold hrAfterSlotChar
  split <;> exact ⟨rfl, rfl, rfl, rfl, rfl⟩

theorem sameUnderPut_hrAfterTail : SameUnderPut h (hrAfterTail h) := by
  unfold hrAfterTail
  split <;> exact ⟨rfl, rfl, rfl, rfl, rfl⟩

theorem sameUnderPut_hrAfterLf : SameUnderPut h (hrAfterLf h) := by
  unfold hrAfterLf
  split <;> exact ⟨rfl, rfl, rfl, rfl, rfl⟩

theorem sameUnderPut_hrAfterPut : SameUnderPut h (hrAfterPut h) := by
  unfold hrAfterPut
  cases h.state with
  | addr => exact sameUnderPut_hrAfterAddr h
  | hex | pad => exact sameUnderPut_hrAfterSlotChar h
  | tail => exact sameUnderPut_hrAfterTail h
  | lf => exact sameUnderPut_hrAfterLf h
  | idle | slot | sep | cr => exact ⟨rfl, rfl, rfl, rfl, rfl⟩

end

/-- Settles O34: an operation that waited changed nothing; an answered read writes registers of HR only; a put the sink took appends its byte
and takes HR's step, which has the frame of `SameUnderPut`. -/
theorem streamOpsFrame : Obligations.StreamOpsFrame := by
  intro i s t hi h
  obtain ⟨src, pos, rfl⟩ | ⟨eol, b, rfl⟩ := hi
  · rw [exec, execBsRead] at h
    obtain ⟨_, ⟨_, rfl⟩ | ⟨_, rfl⟩⟩ := bsTransact_next h
    · simp
    · exact ⟨rfl, rfl, rfl, rfl, rfl, fun _ => rfl, rfl, rfl, rfl, rfl, rfl, fun _ _ _ => ⟨rfl, rfl, rfl⟩, nofun⟩
  · rw [exec, execSkPut] at h
    obtain ⟨_, ⟨_, rfl⟩ | ⟨_, rfl⟩⟩ := skTransact_next h
    · simp
    · obtain ⟨hsrc, haddr, hcount, hcur, htail⟩ := sameUnderPut_hrAfterPut s.hr
      refine ⟨rfl, rfl, rfl, rfl, rfl, fun _ => rfl, rfl, rfl, rfl, rfl, hsrc, nofun, fun eol' b' heq => ?_⟩
      cases heq
      exact ⟨.inr rfl, haddr, hcount, hcur, htail⟩

end Sys2Proof.Machine
end
